-- ==== Sys2Proof/Word.lean ====
section
/-! DEFINITION. The word and byte types of the machine (spec/00_scope.md R8, R11, R12; spec/10_state.md R33). -/

namespace Sys2Proof

/-- A word: "a 32-bit two's-complement value held in a register or memory cell" (spec/00_scope.md R12).
Its reading `signed(w)` is `BitVec.toInt`, its reading `unsigned(w)` is `BitVec.toNat`. -/
abbrev Word := BitVec 32

/-- A character of the input or output stream: an 8-bit value (spec/46_io_x2.md R200). -/
abbrev Byte := BitVec 8

end Sys2Proof
end

