-- ==== Sys2Proof/Syntax.lean ====
section
/-! DEFINITION. The instruction set as syntax: one constructor per row of spec/opcode_table.json
(spec/30_encoding.md R80). No meaning stands here. -/

namespace Sys2Proof

/-- A register index 0 to 15 (spec/10_state.md R20; spec/30_encoding.md R73). -/
abbrev Reg := Fin 16

/-- The program counter, register 15 (spec/10_state.md R22; spec/00_scope.md R16). -/
abbrev pcReg : Reg := 15

/-- The stack pointer, register 14 (spec/10_state.md R24; spec/00_scope.md R16). -/
abbrev spReg : Reg := 14

/-- The seven opcode families, named by the nibble that selects them (spec/30_encoding.md R61). -/
inductive Family where
  | x7 | x6 | x5 | x4 | x3 | x2 | x1
  deriving DecidableEq, Repr

/-- One instruction. `d` is the destination register, `r` in format R the source register and in format IO the I/O
register, `x` the index register (0: no index), `base` the 20-bit base address, `imm` the 20-bit immediate, `n` the
5-bit shift count, `ignored` the bits a reserved word carries undecoded (spec/30_encoding.md R65 to R71). -/
inductive Instr where
  /-- HALT, the all-zero word (spec/48_execution_driver.md R247). -/
  | halt
  /-- LOAD: Reg[d] = Mem[EA] (spec/41_memref_x7.md R101). -/
  | load (d x : Reg) (base : Nat)
  /-- STORE: Mem[EA] = Reg[d] (spec/41_memref_x7.md R102). -/
  | store (d x : Reg) (base : Nat)
  /-- ADDM: Reg[d] += Mem[EA] (spec/41_memref_x7.md R103). -/
  | addm (d x : Reg) (base : Nat)
  /-- SUBM: Reg[d] -= Mem[EA] (spec/41_memref_x7.md R104). -/
  | subm (d x : Reg) (base : Nat)
  /-- JUMP: PC = EA (spec/41_memref_x7.md R105). -/
  | jump (x : Reg) (base : Nat)
  /-- CALL: push the PC, PC = EA (spec/41_memref_x7.md R106). -/
  | call (x : Reg) (base : Nat)
  /-- LDU: Reg[d] = zext imm (spec/42_immediate_x6.md R121). -/
  | ldu (d : Reg) (imm : BitVec 20)
  /-- LDS: Reg[d] = sext imm (spec/42_immediate_x6.md R122). -/
  | lds (d : Reg) (imm : BitVec 20)
  /-- ADDI: Reg[d] += sext imm (spec/42_immediate_x6.md R123). -/
  | addi (d : Reg) (imm : BitVec 20)
  /-- SUBI: Reg[d] -= sext imm (spec/42_immediate_x6.md R124). -/
  | subi (d : Reg) (imm : BitVec 20)
  /-- ORI: Reg[d] |= sext imm, and the PC does not advance (spec/42_immediate_x6.md R125). -/
  | ori (d : Reg) (imm : BitVec 20)
  /-- ANDI: Reg[d] &= sext imm (spec/42_immediate_x6.md R126). -/
  | andi (d : Reg) (imm : BitVec 20)
  /-- XORI: Reg[d] ^= sext imm (spec/42_immediate_x6.md R127). -/
  | xori (d : Reg) (imm : BitVec 20)
  /-- SLL: logical-left by n (spec/43_shift_x5.md R141). -/
  | sll (d : Reg) (n : Nat)
  /-- SRL: logical-right by n (spec/43_shift_x5.md R142). -/
  | srl (d : Reg) (n : Nat)
  /-- SLA: arithmetic-left by n (spec/43_shift_x5.md R143). -/
  | sla (d : Reg) (n : Nat)
  /-- SRA: arithmetic-right by n (spec/43_shift_x5.md R144). -/
  | sra (d : Reg) (n : Nat)
  /-- ROL: circular-left by n (spec/43_shift_x5.md R145). -/
  | rol (d : Reg) (n : Nat)
  /-- ROR: circular-right by n (spec/43_shift_x5.md R146). -/
  | ror (d : Reg) (n : Nat)
  /-- MOV: copy (spec/44_regreg_x4.md R161). -/
  | mov (d r : Reg)
  /-- ADD: add (spec/44_regreg_x4.md R162). -/
  | add (d r : Reg)
  /-- SUB: subtract (spec/44_regreg_x4.md R163). -/
  | sub (d r : Reg)
  /-- OR: or (spec/44_regreg_x4.md R164). -/
  | or (d r : Reg)
  /-- AND: and (spec/44_regreg_x4.md R165). -/
  | and (d r : Reg)
  /-- XOR: xor (spec/44_regreg_x4.md R166). -/
  | xor (d r : Reg)
  /-- SKGT: skip if Rs > Rd, signed (spec/44_regreg_x4.md R167). -/
  | skgt (d r : Reg)
  /-- SKGE: skip if Rs ≥ Rd, signed (spec/44_regreg_x4.md R168). -/
  | skge (d r : Reg)
  /-- SKEQ: skip if Rs = Rd (spec/44_regreg_x4.md R169). -/
  | skeq (d r : Reg)
  /-- SKLE: skip if Rs ≤ Rd, signed (spec/44_regreg_x4.md R170). -/
  | skle (d r : Reg)
  /-- SKLT: skip if Rs < Rd, signed (spec/44_regreg_x4.md R171). -/
  | sklt (d r : Reg)
  /-- SKOV: reserved (spec/44_regreg_x4.md R172). -/
  | skov (ignored : BitVec 16)
  /-- SKNOV: reserved (spec/44_regreg_x4.md R172). -/
  | sknov (ignored : BitVec 16)
  /-- X3.1: reserved (spec/45_single_x3.md R190). -/
  | x3_1 (ignored : BitVec 12)
  /-- X3.2: reserved (spec/45_single_x3.md R190). -/
  | x3_2 (ignored : BitVec 12)
  /-- X3.3: reserved (spec/45_single_x3.md R190). -/
  | x3_3 (ignored : BitVec 12)
  /-- X3.4: reserved (spec/45_single_x3.md R190). -/
  | x3_4 (ignored : BitVec 12)
  /-- X3.5: reserved (spec/45_single_x3.md R190). -/
  | x3_5 (ignored : BitVec 12)
  /-- X3.6: reserved (spec/45_single_x3.md R190). -/
  | x3_6 (ignored : BitVec 12)
  /-- X3.7: reserved (spec/45_single_x3.md R190). -/
  | x3_7 (ignored : BitVec 12)
  /-- X3.8: reserved (spec/45_single_x3.md R190). -/
  | x3_8 (ignored : BitVec 12)
  /-- X3.9: reserved (spec/45_single_x3.md R190). -/
  | x3_9 (ignored : BitVec 12)
  /-- X3.10: reserved (spec/45_single_x3.md R190). -/
  | x3_10 (ignored : BitVec 12)
  /-- X3.11: reserved (spec/45_single_x3.md R190). -/
  | x3_11 (ignored : BitVec 12)
  /-- X3.12: reserved (spec/45_single_x3.md R190). -/
  | x3_12 (ignored : BitVec 12)
  /-- X3.13: reserved (spec/45_single_x3.md R190). -/
  | x3_13 (ignored : BitVec 12)
  /-- X3.14: reserved (spec/45_single_x3.md R190). -/
  | x3_14 (ignored : BitVec 12)
  /-- X3.15: reserved (spec/45_single_x3.md R190). -/
  | x3_15 (ignored : BitVec 12)
  /-- WCH: emit the low byte of register r (spec/46_io_x2.md R201). -/
  | wch (r : Reg)
  /-- RCH: wait for one character, store it into the low byte of register r (spec/46_io_x2.md R202). -/
  | rch (r : Reg)
  /-- WRL: emit all registers as one event (spec/46_io_x2.md R203). -/
  | wrl (r : Reg)
  /-- NOP (spec/47_misc_x1.md R220). -/
  | nop
  /-- RET: pop the PC (spec/47_misc_x1.md R221). -/
  | ret
  deriving DecidableEq, Repr

end Sys2Proof
end

