-- ==== Sys2Proof/WellFormed.lean ====
section
/-! DEFINITION. Which instruction terms have an encoding: the side conditions of the encoder (spec/30_encoding.md R83:
base < 2^20, n < 32). Every other field's type is exactly its field of the word. -/

namespace Sys2Proof

/-- The base address fits its 20-bit field (spec/30_encoding.md R65, R83). -/
abbrev baseFits (base : Nat) : Prop := base < 2 ^ 20

/-- The shift count fits its 5-bit field (spec/30_encoding.md R67, R76, R83). -/
abbrev countFits (n : Nat) : Prop := n < 32

/-- The checks of spec/30_encoding.md R83, instruction by instruction, as a Bool. -/
def Instr.wellFormed : Instr → Bool
  | .halt => true
  | .load _ _ base => decide (baseFits base)
  | .store _ _ base => decide (baseFits base)
  | .addm _ _ base => decide (baseFits base)
  | .subm _ _ base => decide (baseFits base)
  | .jump _ base => decide (baseFits base)
  | .call _ base => decide (baseFits base)
  | .ldu _ _ => true
  | .lds _ _ => true
  | .addi _ _ => true
  | .subi _ _ => true
  | .ori _ _ => true
  | .andi _ _ => true
  | .xori _ _ => true
  | .sll _ n => decide (countFits n)
  | .srl _ n => decide (countFits n)
  | .sla _ n => decide (countFits n)
  | .sra _ n => decide (countFits n)
  | .rol _ n => decide (countFits n)
  | .ror _ n => decide (countFits n)
  | .mov _ _ => true
  | .add _ _ => true
  | .sub _ _ => true
  | .or _ _ => true
  | .and _ _ => true
  | .xor _ _ => true
  | .skgt _ _ => true
  | .skge _ _ => true
  | .skeq _ _ => true
  | .skle _ _ => true
  | .sklt _ _ => true
  | .skov _ => true
  | .sknov _ => true
  | .x3_1 _ => true
  | .x3_2 _ => true
  | .x3_3 _ => true
  | .x3_4 _ => true
  | .x3_5 _ => true
  | .x3_6 _ => true
  | .x3_7 _ => true
  | .x3_8 _ => true
  | .x3_9 _ => true
  | .x3_10 _ => true
  | .x3_11 _ => true
  | .x3_12 _ => true
  | .x3_13 _ => true
  | .x3_14 _ => true
  | .x3_15 _ => true
  | .wch _ => true
  | .rch _ => true
  | .wrl _ => true
  | .nop => true
  | .ret => true

/-- An instruction that has an encoding. -/
abbrev Instr.WellFormed (i : Instr) : Prop := i.wellFormed = true

end Sys2Proof
end

