-- ==== Sys2Proof/Decode.lean ====
section
/-! DEFINITION. The priority decoder of spec/30_encoding.md R61 to R82, total on words and rejecting by name; after it
the encoder of R83 and the opcode table's rows (spec/opcode_table.json) as data. -/

namespace Sys2Proof

/-- `w[hi:lo]` read as an unsigned number (spec/00_scope.md R11). -/
def field (w : Word) (hi lo : Nat) : Nat := w.toNat / 2 ^ lo % 2 ^ (hi + 1 - lo)

/-- The 4-bit register field whose least significant bit is `lo` (spec/30_encoding.md R73). -/
def regField (w : Word) (lo : Nat) : Reg := ⟨w.toNat / 2 ^ lo % 16, Nat.mod_lt _ (by decide)⟩

/-- Why the decoder finds no instruction in a word; each is status Invalid-Instruction (spec/60_exceptions.md R282). -/
inductive Reject where
  /-- A non-zero word whose bits 31:4 are all zero (spec/30_encoding.md R64). -/
  | noFamily
  /-- An opcode its family does not define (spec/30_encoding.md R78). -/
  | undefinedOpcode
  /-- A should-be-zero bit of a defined opcode is set (spec/30_encoding.md R72). -/
  | shouldBeZero
  deriving DecidableEq, Repr

/-- What decoding a word gives (spec/30_encoding.md R81). Halt and the reserved words are instructions of the opcode
table here: their statuses are their meanings. -/
inductive Decoded where
  | instr (i : Instr)
  | invalid (why : Reject)
  deriving DecidableEq, Repr

/-- Take instruction `i` if the should-be-zero field holds 0 (spec/30_encoding.md R72). -/
def ifZero (sbz : Nat) (i : Instr) : Decoded := if sbz = 0 then .instr i else .invalid .shouldBeZero

/-- Format M words (spec/30_encoding.md R65, R72, R78, R81). -/
def decodeX7 (w : Word) : Decoded :=
  match field w 31 28 with
  | 1 => .instr (.load (regField w 20) (regField w 24) (field w 19 0))
  | 2 => .instr (.store (regField w 20) (regField w 24) (field w 19 0))
  | 3 => .instr (.addm (regField w 20) (regField w 24) (field w 19 0))
  | 4 => .instr (.subm (regField w 20) (regField w 24) (field w 19 0))
  | 5 => ifZero (field w 23 20) (.jump (regField w 24) (field w 19 0))
  | 6 => ifZero (field w 23 20) (.call (regField w 24) (field w 19 0))
  | _ => .invalid .undefinedOpcode

/-- Format I words (spec/30_encoding.md R66, R78, R81). -/
def decodeX6 (w : Word) : Decoded :=
  match field w 27 24 with
  | 1 => .instr (.ldu (regField w 20) (w.setWidth 20))
  | 2 => .instr (.lds (regField w 20) (w.setWidth 20))
  | 3 => .instr (.addi (regField w 20) (w.setWidth 20))
  | 4 => .instr (.subi (regField w 20) (w.setWidth 20))
  | 5 => .instr (.ori (regField w 20) (w.setWidth 20))
  | 6 => .instr (.andi (regField w 20) (w.setWidth 20))
  | 7 => .instr (.xori (regField w 20) (w.setWidth 20))
  | _ => .invalid .undefinedOpcode

/-- Format S words (spec/30_encoding.md R67, R72, R76, R78, R81). -/
def decodeX5 (w : Word) : Decoded :=
  match field w 23 20 with
  | 1 => ifZero (field w 10 0) (.sll (regField w 16) (field w 15 11))
  | 2 => ifZero (field w 10 0) (.srl (regField w 16) (field w 15 11))
  | 3 => ifZero (field w 10 0) (.sla (regField w 16) (field w 15 11))
  | 4 => ifZero (field w 10 0) (.sra (regField w 16) (field w 15 11))
  | 5 => ifZero (field w 10 0) (.rol (regField w 16) (field w 15 11))
  | 6 => ifZero (field w 10 0) (.ror (regField w 16) (field w 15 11))
  | _ => .invalid .undefinedOpcode

/-- Format R words (spec/30_encoding.md R68, R72, R77, R78, R81). -/
def decodeX4 (w : Word) : Decoded :=
  match field w 19 16 with
  | 1 => ifZero (field w 7 0) (.mov (regField w 12) (regField w 8))
  | 2 => ifZero (field w 7 0) (.add (regField w 12) (regField w 8))
  | 3 => ifZero (field w 7 0) (.sub (regField w 12) (regField w 8))
  | 4 => ifZero (field w 7 0) (.or (regField w 12) (regField w 8))
  | 5 => ifZero (field w 7 0) (.and (regField w 12) (regField w 8))
  | 6 => ifZero (field w 7 0) (.xor (regField w 12) (regField w 8))
  | 7 => ifZero (field w 7 0) (.skgt (regField w 12) (regField w 8))
  | 8 => ifZero (field w 7 0) (.skge (regField w 12) (regField w 8))
  | 9 => ifZero (field w 7 0) (.skeq (regField w 12) (regField w 8))
  | 10 => ifZero (field w 7 0) (.skle (regField w 12) (regField w 8))
  | 11 => ifZero (field w 7 0) (.sklt (regField w 12) (regField w 8))
  | 12 => .instr (.skov (w.setWidth 16))
  | 13 => .instr (.sknov (w.setWidth 16))
  | _ => .invalid .undefinedOpcode

/-- Format X3 words, all reserved (spec/30_encoding.md R69, R77). -/
def decodeX3 (w : Word) : Decoded :=
  match field w 15 12 with
  | 1 => .instr (.x3_1 (w.setWidth 12))
  | 2 => .instr (.x3_2 (w.setWidth 12))
  | 3 => .instr (.x3_3 (w.setWidth 12))
  | 4 => .instr (.x3_4 (w.setWidth 12))
  | 5 => .instr (.x3_5 (w.setWidth 12))
  | 6 => .instr (.x3_6 (w.setWidth 12))
  | 7 => .instr (.x3_7 (w.setWidth 12))
  | 8 => .instr (.x3_8 (w.setWidth 12))
  | 9 => .instr (.x3_9 (w.setWidth 12))
  | 10 => .instr (.x3_10 (w.setWidth 12))
  | 11 => .instr (.x3_11 (w.setWidth 12))
  | 12 => .instr (.x3_12 (w.setWidth 12))
  | 13 => .instr (.x3_13 (w.setWidth 12))
  | 14 => .instr (.x3_14 (w.setWidth 12))
  | 15 => .instr (.x3_15 (w.setWidth 12))
  | _ => .invalid .undefinedOpcode

/-- Format IO words (spec/30_encoding.md R70, R72, R78, R81). -/
def decodeX2 (w : Word) : Decoded :=
  match field w 11 8 with
  | 1 => ifZero (field w 3 0) (.wch (regField w 4))
  | 2 => ifZero (field w 3 0) (.rch (regField w 4))
  | 3 => ifZero (field w 3 0) (.wrl (regField w 4))
  | _ => .invalid .undefinedOpcode

/-- Format C words (spec/30_encoding.md R71, R72, R78, R81). -/
def decodeX1 (w : Word) : Decoded :=
  match field w 7 4 with
  | 1 => ifZero (field w 3 0) .nop
  | 2 => ifZero (field w 3 0) .ret
  | _ => .invalid .undefinedOpcode

/-- The decode function of spec/30_encoding.md R81: the zero word is Halt; any other word goes to the family of its
most significant non-zero nibble (R61). It reads only the word. -/
def decode (w : Word) : Decoded :=
  if w = 0#32 then .instr .halt
  else if field w 31 28 ≠ 0 then decodeX7 w
  else if field w 27 24 ≠ 0 then decodeX6 w
  else if field w 23 20 ≠ 0 then decodeX5 w
  else if field w 19 16 ≠ 0 then decodeX4 w
  else if field w 15 12 ≠ 0 then decodeX3 w
  else if field w 11 8 ≠ 0 then decodeX2 w
  else if field w 7 4 ≠ 0 then decodeX1 w
  else .invalid .noFamily

/-- The instruction the decoder reads from a word numbered as the opcode table numbers it: `nbits` bits of `w`, every
higher bit of the one-word instruction 0. -/
def decodeTableWord (nbits w : Nat) : Option Instr :=
  match decode (BitVec.ofNat 32 (w % 2 ^ nbits)) with
  | .instr i => some i
  | .invalid _ => none

/-! ## The encoder (spec/30_encoding.md R83). The fields of a format do not overlap, so `|` of the shifted fields is
their sum. -/

/-- M(op, x, d, base). -/
def encM (op : Nat) (x d : Reg) (base : Nat) : Nat := op * 2 ^ 28 + x.val * 2 ^ 24 + d.val * 2 ^ 20 + base

/-- I(op, d, imm20). -/
def encI (op : Nat) (d : Reg) (imm : BitVec 20) : Nat := op * 2 ^ 24 + d.val * 2 ^ 20 + imm.toNat

/-- S(op, d, n). -/
def encS (op : Nat) (d : Reg) (n : Nat) : Nat := op * 2 ^ 20 + d.val * 2 ^ 16 + n * 2 ^ 11

/-- R(op, d, s). -/
def encR (op : Nat) (d r : Reg) : Nat := op * 2 ^ 16 + d.val * 2 ^ 12 + r.val * 2 ^ 8

/-- IO(op, r). -/
def encIO (op : Nat) (r : Reg) : Nat := op * 2 ^ 8 + r.val * 2 ^ 4

/-- C(op). -/
def encC (op : Nat) : Nat := op * 2 ^ 4

/-- A reserved X4 word: the selector and its undecoded bits 15:0 (spec/44_regreg_x4.md R172). -/
def encX4Reserved (op : Nat) (ignored : BitVec 16) : Nat := op * 2 ^ 16 + ignored.toNat

/-- A reserved X3 word: the selector and its undecoded bits 11:0 (spec/45_single_x3.md R190). -/
def encX3Reserved (op : Nat) (ignored : BitVec 12) : Nat := op * 2 ^ 12 + ignored.toNat

/-- The word of an instruction as a number (spec/30_encoding.md R83). -/
def Instr.encodeNat : Instr → Nat
  | .halt => 0
  | .load d x base => encM 1 x d base
  | .store d x base => encM 2 x d base
  | .addm d x base => encM 3 x d base
  | .subm d x base => encM 4 x d base
  | .jump x base => encM 5 x 0 base
  | .call x base => encM 6 x 0 base
  | .ldu d imm => encI 1 d imm
  | .lds d imm => encI 2 d imm
  | .addi d imm => encI 3 d imm
  | .subi d imm => encI 4 d imm
  | .ori d imm => encI 5 d imm
  | .andi d imm => encI 6 d imm
  | .xori d imm => encI 7 d imm
  | .sll d n => encS 1 d n
  | .srl d n => encS 2 d n
  | .sla d n => encS 3 d n
  | .sra d n => encS 4 d n
  | .rol d n => encS 5 d n
  | .ror d n => encS 6 d n
  | .mov d r => encR 1 d r
  | .add d r => encR 2 d r
  | .sub d r => encR 3 d r
  | .or d r => encR 4 d r
  | .and d r => encR 5 d r
  | .xor d r => encR 6 d r
  | .skgt d r => encR 7 d r
  | .skge d r => encR 8 d r
  | .skeq d r => encR 9 d r
  | .skle d r => encR 10 d r
  | .sklt d r => encR 11 d r
  | .skov ignored => encX4Reserved 12 ignored
  | .sknov ignored => encX4Reserved 13 ignored
  | .x3_1 ignored => encX3Reserved 1 ignored
  | .x3_2 ignored => encX3Reserved 2 ignored
  | .x3_3 ignored => encX3Reserved 3 ignored
  | .x3_4 ignored => encX3Reserved 4 ignored
  | .x3_5 ignored => encX3Reserved 5 ignored
  | .x3_6 ignored => encX3Reserved 6 ignored
  | .x3_7 ignored => encX3Reserved 7 ignored
  | .x3_8 ignored => encX3Reserved 8 ignored
  | .x3_9 ignored => encX3Reserved 9 ignored
  | .x3_10 ignored => encX3Reserved 10 ignored
  | .x3_11 ignored => encX3Reserved 11 ignored
  | .x3_12 ignored => encX3Reserved 12 ignored
  | .x3_13 ignored => encX3Reserved 13 ignored
  | .x3_14 ignored => encX3Reserved 14 ignored
  | .x3_15 ignored => encX3Reserved 15 ignored
  | .wch r => encIO 1 r
  | .rch r => encIO 2 r
  | .wrl r => encIO 3 r
  | .nop => encC 1
  | .ret => encC 2

/-- The word of an instruction (spec/30_encoding.md R83). -/
def encode (i : Instr) : Word := BitVec.ofNat 32 i.encodeNat

/-- The family and the opcode of an instruction (spec/30_encoding.md R62, R80); HALT has neither. -/
def Instr.familyOpcode : Instr → Option (Family × Nat)
  | .halt => none
  | .load _ _ _ => some (.x7, 1)
  | .store _ _ _ => some (.x7, 2)
  | .addm _ _ _ => some (.x7, 3)
  | .subm _ _ _ => some (.x7, 4)
  | .jump _ _ => some (.x7, 5)
  | .call _ _ => some (.x7, 6)
  | .ldu _ _ => some (.x6, 1)
  | .lds _ _ => some (.x6, 2)
  | .addi _ _ => some (.x6, 3)
  | .subi _ _ => some (.x6, 4)
  | .ori _ _ => some (.x6, 5)
  | .andi _ _ => some (.x6, 6)
  | .xori _ _ => some (.x6, 7)
  | .sll _ _ => some (.x5, 1)
  | .srl _ _ => some (.x5, 2)
  | .sla _ _ => some (.x5, 3)
  | .sra _ _ => some (.x5, 4)
  | .rol _ _ => some (.x5, 5)
  | .ror _ _ => some (.x5, 6)
  | .mov _ _ => some (.x4, 1)
  | .add _ _ => some (.x4, 2)
  | .sub _ _ => some (.x4, 3)
  | .or _ _ => some (.x4, 4)
  | .and _ _ => some (.x4, 5)
  | .xor _ _ => some (.x4, 6)
  | .skgt _ _ => some (.x4, 7)
  | .skge _ _ => some (.x4, 8)
  | .skeq _ _ => some (.x4, 9)
  | .skle _ _ => some (.x4, 10)
  | .sklt _ _ => some (.x4, 11)
  | .skov _ => some (.x4, 12)
  | .sknov _ => some (.x4, 13)
  | .x3_1 _ => some (.x3, 1)
  | .x3_2 _ => some (.x3, 2)
  | .x3_3 _ => some (.x3, 3)
  | .x3_4 _ => some (.x3, 4)
  | .x3_5 _ => some (.x3, 5)
  | .x3_6 _ => some (.x3, 6)
  | .x3_7 _ => some (.x3, 7)
  | .x3_8 _ => some (.x3, 8)
  | .x3_9 _ => some (.x3, 9)
  | .x3_10 _ => some (.x3, 10)
  | .x3_11 _ => some (.x3, 11)
  | .x3_12 _ => some (.x3, 12)
  | .x3_13 _ => some (.x3, 13)
  | .x3_14 _ => some (.x3, 14)
  | .x3_15 _ => some (.x3, 15)
  | .wch _ => some (.x2, 1)
  | .rch _ => some (.x2, 2)
  | .wrl _ => some (.x2, 3)
  | .nop => some (.x1, 1)
  | .ret => some (.x1, 2)

/-- The bit position of a family's selector nibble (spec/30_encoding.md R61). -/
def Family.selectorLow : Family → Nat
  | .x7 => 28
  | .x6 => 24
  | .x5 => 20
  | .x4 => 16
  | .x3 => 12
  | .x2 => 8
  | .x1 => 4

/-! ## The opcode table (spec/opcode_table.json), row by row: the fixed fields (hi, lo, value) of each row. -/

/-- One row of the opcode table: the fields whose value is fixed, as (hi, lo, value). -/
abbrev Row := List (Nat × Nat × Nat)

/-- Does the word hold every fixed field of the row (spec/30_encoding.md R82)? -/
def Row.matchesWord (row : Row) (w : Word) : Bool := row.all fun f => field w f.1 f.2.1 == f.2.2

/-- The opcode table's row of an instruction. -/
def Instr.row : Instr → Row
  | .halt => [(31, 0, 0)]
  | .load _ _ _ => [(31, 28, 1)]
  | .store _ _ _ => [(31, 28, 2)]
  | .addm _ _ _ => [(31, 28, 3)]
  | .subm _ _ _ => [(31, 28, 4)]
  | .jump _ _ => [(23, 20, 0), (31, 28, 5)]
  | .call _ _ => [(23, 20, 0), (31, 28, 6)]
  | .ldu _ _ => [(31, 24, 1)]
  | .lds _ _ => [(31, 24, 2)]
  | .addi _ _ => [(31, 24, 3)]
  | .subi _ _ => [(31, 24, 4)]
  | .ori _ _ => [(31, 24, 5)]
  | .andi _ _ => [(31, 24, 6)]
  | .xori _ _ => [(31, 24, 7)]
  | .sll _ _ => [(10, 0, 0), (31, 20, 1)]
  | .srl _ _ => [(10, 0, 0), (31, 20, 2)]
  | .sla _ _ => [(10, 0, 0), (31, 20, 3)]
  | .sra _ _ => [(10, 0, 0), (31, 20, 4)]
  | .rol _ _ => [(10, 0, 0), (31, 20, 5)]
  | .ror _ _ => [(10, 0, 0), (31, 20, 6)]
  | .mov _ _ => [(7, 0, 0), (31, 16, 1)]
  | .add _ _ => [(7, 0, 0), (31, 16, 2)]
  | .sub _ _ => [(7, 0, 0), (31, 16, 3)]
  | .or _ _ => [(7, 0, 0), (31, 16, 4)]
  | .and _ _ => [(7, 0, 0), (31, 16, 5)]
  | .xor _ _ => [(7, 0, 0), (31, 16, 6)]
  | .skgt _ _ => [(7, 0, 0), (31, 16, 7)]
  | .skge _ _ => [(7, 0, 0), (31, 16, 8)]
  | .skeq _ _ => [(7, 0, 0), (31, 16, 9)]
  | .skle _ _ => [(7, 0, 0), (31, 16, 10)]
  | .sklt _ _ => [(7, 0, 0), (31, 16, 11)]
  | .skov _ => [(31, 16, 12)]
  | .sknov _ => [(31, 16, 13)]
  | .x3_1 _ => [(31, 12, 1)]
  | .x3_2 _ => [(31, 12, 2)]
  | .x3_3 _ => [(31, 12, 3)]
  | .x3_4 _ => [(31, 12, 4)]
  | .x3_5 _ => [(31, 12, 5)]
  | .x3_6 _ => [(31, 12, 6)]
  | .x3_7 _ => [(31, 12, 7)]
  | .x3_8 _ => [(31, 12, 8)]
  | .x3_9 _ => [(31, 12, 9)]
  | .x3_10 _ => [(31, 12, 10)]
  | .x3_11 _ => [(31, 12, 11)]
  | .x3_12 _ => [(31, 12, 12)]
  | .x3_13 _ => [(31, 12, 13)]
  | .x3_14 _ => [(31, 12, 14)]
  | .x3_15 _ => [(31, 12, 15)]
  | .wch _ => [(3, 0, 0), (31, 8, 1)]
  | .rch _ => [(3, 0, 0), (31, 8, 2)]
  | .wrl _ => [(3, 0, 0), (31, 8, 3)]
  | .nop => [(31, 0, 16)]
  | .ret => [(31, 0, 32)]

end Sys2Proof
end

