-- ==== Sys2Proof/Config.lean ====
section
/-! DEFINITION. What is fixed for one machine: the bounds of the parameter SIZE and the word an unwritten cell holds
(spec/00_scope.md R9; spec/10_state.md R35). Every other parameter of spec/92_eei_decisions.md has its default value
in this model (notes/assumptions/8.md), so it needs no constant here. -/

namespace Sys2Proof.Config

/-- The least memory size the spec allows (spec/00_scope.md R9: 1 ≤ SIZE ≤ 2^31). -/
def minSize : Nat := 1

/-- The greatest memory size the spec allows (spec/00_scope.md R9). -/
def maxSize : Nat := 2 ^ 31

/-- DESIGN CHOICE (notes/assumptions/1.md, unsafe for statements about the reset state only): the memory size of
`State.reset`. The spec gives SIZE no value; its test vectors use 4096 (spec/00_scope.md R9). -/
def resetSize : Nat := 4096

/-- What a memory cell holds that nothing has written: construction sets every cell to 0 (spec/10_state.md R35). -/
def unwrittenWord : Word := 0#32

end Sys2Proof.Config
end

