-- ==== Sys2Proof/Machine/State.lean ====
section
/-! DEFINITION. The state of the machine as plain data (spec/10_state.md R20 to R36), its stops, and its reset
(spec/10_state.md R35; spec/70_reset_and_hazards.md R300). -/

namespace Sys2Proof.Machine

/-- The statuses a step or a host operation returns (spec/00_scope.md R17; spec/60_exceptions.md R281). -/
inductive Status where
  | ok
  | halt
  | invalidInstruction
  | notImplemented
  | outOfRange
  deriving DecidableEq, Repr

/-- An event of the output stream (spec/10_state.md R33): a character, or a register dump with the register field it
names and the sixteen register values before the step. -/
inductive OutEvent where
  | char (b : Byte)
  | regLine (r : Reg) (regs : Vector Word 16)
  deriving DecidableEq, Repr

/-- One memory cell: a word address and the word there. The spec's smallest addressable unit is the word and memory
has no byte addresses (spec/20_memory.md R40, R43; DESIGN CHOICE notes/assumptions/2.md, safe). -/
abbrev Cell := Nat × Word

/-- The memory array (spec/10_state.md R31): the cells that differ from what an unwritten cell holds, addresses
strictly rising. `Memory.Canonical` (Machine/Ops.lean) is that form. -/
abbrev Memory := List Cell

/-- The whole machine. `regs` and `mem` are the core's state (spec/10_state.md R36); `out` and `inp` are the host's
streams as the core sees them (R33); `size` and `status` are the model's own fields. -/
structure State where
  /-- The register file: 16 words; 15 is the PC, 14 the SP (spec/10_state.md R20, R22, R24). -/
  regs : Vector Word 16
  /-- The memory array (spec/10_state.md R31). -/
  mem : Memory
  /-- The parameter SIZE, the number of words of memory (spec/00_scope.md R9; spec/92_eei_decisions.md D1). No step
  writes it. DESIGN CHOICE (notes/assumptions/1.md): the machine's parameter stands in State, so that a statement
  about every state is a statement about every SIZE. -/
  size : Nat
  /-- The events emitted so far, oldest first (spec/10_state.md R33; spec/46_io_x2.md R200). -/
  out : List OutEvent
  /-- The characters the host has supplied and the core has not consumed, oldest first (spec/10_state.md R33). -/
  inp : List Byte
  /-- What the last step returned to the host: an output of the step, read by no instruction (spec/10_state.md R34;
  spec/48_execution_driver.md R249). `none`: nothing returned, because no step was made yet or because the step waits
  in RCH. DESIGN CHOICE (notes/assumptions/3.md, safe). -/
  status : Option Status
  deriving DecidableEq, Repr

/-- The faults of a step (spec/60_exceptions.md R282, R295). A fault returns its status to the host and changes no
register, memory cell or stream (spec/48_execution_driver.md R246): the state after it is the state before it. -/
inductive Fault where
  /-- Raised by `step` when the decoder rejects the word (spec/30_encoding.md R64, R72, R78). Safe: the spec names
  this status and gives no further effect. -/
  | invalidInstruction
  /-- Raised by the meanings of the reserved words X3.1 to X3.15, SKOV and SKNOV (spec/30_encoding.md R77). Safe: the
  spec names this status and gives no further effect. -/
  | notImplemented
  /-- Raised by `step` when the PC, by an X7 instruction when its effective address, by CALL and RET when their stack
  slot is outside memory (spec/48_execution_driver.md R245). Safe: the spec names this status; no cell stands there. -/
  | outOfRange
  deriving DecidableEq, Repr

/-- The refusals of the model. -/
inductive Refusal where
  /-- Raised only by an arm of `exec` whose instruction has no meaning yet; no arm raises it in this model. Safe: the
  machine stops. -/
  | notModelled (mnemonic : String)
  deriving DecidableEq, Repr

/-- The status a fault returns to the host (spec/60_exceptions.md R281). -/
def Fault.toStatus : Fault → Status
  | .invalidInstruction => .invalidInstruction
  | .notImplemented => .notImplemented
  | .outOfRange => .outOfRange

/-- `construct()` of a machine with `size` words of memory: every register and cell 0, no event emitted
(spec/10_state.md R35; spec/49_host_interface.md R262). DESIGN CHOICE (notes/assumptions/6.md): no character supplied
yet; (notes/assumptions/3.md): no status returned yet. -/
def State.construct (size : Nat) : State where
  regs := Vector.replicate 16 0#32
  mem := []
  size := size
  out := []
  inp := []
  status := none

/-- The machine right after reset: construction is the only reset (spec/70_reset_and_hazards.md R300). DESIGN CHOICE
(notes/assumptions/1.md): with 4096 words of memory. -/
def State.reset : State := State.construct Config.resetSize

end Sys2Proof.Machine
end

