-- ==== Sys2Proof/Machine/Ops.lean ====
section
/-! DEFINITION. The named operations over registers, memory, streams and the PC, the one fault operation, and fetch.
The machine has no trap entry and no return from one (spec/60_exceptions.md R280, R286, R287): raising a fault ends the
step with a status and writes nothing, so there is no saved register, no mode and no handler to model. -/

namespace Sys2Proof.Machine

/-! ## Registers (spec/10_state.md R20 to R27) -/

/-- Read register `r` (spec/00_scope.md R15). No register is hardwired. -/
def State.reg (s : State) (r : Reg) : Word := s.regs[r]

/-- Write register `r` (spec/00_scope.md R15). -/
def State.setReg (s : State) (r : Reg) (v : Word) : State := { s with regs := s.regs.set r.val v r.isLt }

/-- The program counter is register 15 (spec/10_state.md R22). -/
def State.pc (s : State) : Word := s.reg pcReg

/-- The stack pointer is register 14 (spec/10_state.md R24). -/
def State.sp (s : State) : Word := s.reg spReg

/-! ## Memory (spec/20_memory.md R40, R41) -/

/-- The word at address `a`; an unlisted cell holds the word of construction (spec/10_state.md R35). -/
def Memory.read : Memory → Nat → Word
  | [], _ => Config.unwrittenWord
  | (k, v) :: rest, a => if k = a then v else Memory.read rest a

/-- The memory without an entry for `a`. -/
def Memory.erase : Memory → Nat → Memory
  | [], _ => []
  | c :: rest, a => if c.1 = a then Memory.erase rest a else c :: Memory.erase rest a

/-- The memory with an entry for `a` put before the first greater address. -/
def Memory.insert : Memory → Nat → Word → Memory
  | [], a, v => [(a, v)]
  | c :: rest, a, v => if a < c.1 then (a, v) :: c :: rest else c :: Memory.insert rest a v

/-- Write word `v` at address `a` and change no other cell (spec/20_memory.md R40), keeping the canonical form. -/
def Memory.write (m : Memory) (a : Nat) (v : Word) : Memory :=
  if v = Config.unwrittenWord then m.erase a else (m.erase a).insert a v

/-- The canonical form: addresses strictly rising, no entry equal to what an unlisted cell holds
(notes/assumptions/2.md). -/
abbrev Memory.Canonical (m : Memory) : Prop :=
  m.Pairwise (fun c c' => c.1 < c'.1) ∧ ∀ c ∈ m, c.2 ≠ Config.unwrittenWord

/-- The canonical form as a Bool. -/
def Memory.wf (m : Memory) : Bool := decide m.Canonical

/-- `InRange(a)`: 0 ≤ a < SIZE (spec/00_scope.md R15). -/
abbrev State.InRange (s : State) (a : Int) : Prop := 0 ≤ a ∧ a < (s.size : Int)

/-- `MemRead(a, 1)` (spec/00_scope.md R15; spec/20_memory.md R40). -/
def State.memRead (s : State) (a : Nat) : Word := s.mem.read a

/-- `MemWrite(a, 1, v)` (spec/00_scope.md R15; spec/20_memory.md R40). -/
def State.memWrite (s : State) (a : Nat) (v : Word) : State := { s with mem := s.mem.write a v }

/-! ## Streams (spec/10_state.md R33) -/

/-- `Emit(e)`: append an event to the output stream (spec/00_scope.md R15). -/
def State.emit (s : State) (e : OutEvent) : State := { s with out := s.out ++ [e] }

/-- `Receive()`: take the next character, if the host has supplied one (spec/00_scope.md R15). -/
def State.receive (s : State) : Option (Byte × State) :=
  match s.inp with
  | [] => none
  | c :: rest => some (c, { s with inp := rest })

/-! ## How a step ends -/

/-- The PC action a handler chooses (spec/48_execution_driver.md R243). -/
inductive PcAction where
  | advance (n : Nat)
  | transfer
  deriving DecidableEq, Repr

/-- Apply the PC action after the handler's writes: modulo 2^32, so a write to register 15 is advanced too
(spec/48_execution_driver.md R243; spec/10_state.md R23). -/
def State.applyPc (s : State) : PcAction → State
  | .advance n => s.setReg pcReg (s.pc + BitVec.ofNat 32 n)
  | .transfer => s

/-- Record what the step returns to the host (spec/48_execution_driver.md R249). -/
def State.returning (s : State) (st : Option Status) : State := { s with status := st }

/-- The step completes with OK: the handler's writes `s`, then the PC action (spec/48_execution_driver.md R240). -/
def complete (a : PcAction) (s : State) : Host.Outcome State Fault Refusal :=
  .next ((s.applyPc a).returning (some .ok))

/-- `raise S` (spec/00_scope.md R15): the step from `_s` ends with a fault status and undoes nothing, because nothing
has been written (spec/48_execution_driver.md R246; spec/60_exceptions.md R286). -/
def raise (f : Fault) (_s : State) : Host.Outcome State Fault Refusal := .fault f

/-- The step returns Halt and changes no register, memory cell or stream (spec/48_execution_driver.md R247). -/
def haltStep (s : State) : Host.Outcome State Fault Refusal := .next (s.returning (some .halt))

/-- The step waits: nothing changes and nothing is returned until the host supplies a character
(spec/46_io_x2.md R202; DESIGN CHOICE notes/assumptions/5.md, safe: the same state repeats). -/
def hold (s : State) : Host.Outcome State Fault Refusal := .next (s.returning none)

/-- Write register `d` and advance by 1, the end of every computing instruction (spec/48_execution_driver.md R243). -/
def writeAndAdvance (d : Reg) (v : Word) (s : State) : Host.Outcome State Fault Refusal :=
  complete (.advance 1) (s.setReg d v)

/-- Go on with the cell at the integer address `a`, or raise Out-of-Range before any access
(spec/48_execution_driver.md R245). -/
def withCell (s : State) (a : Int) (k : Nat → Host.Outcome State Fault Refusal) :
    Host.Outcome State Fault Refusal :=
  if s.InRange a then k a.toNat else raise .outOfRange s

/-! ## Fetch -/

/-- Fetch the word at signed(PC), or nothing when that is outside memory (spec/48_execution_driver.md R241). -/
def State.fetch (s : State) : Option Word :=
  if s.InRange s.pc.toInt then some (s.memRead s.pc.toInt.toNat) else none

end Sys2Proof.Machine
end

