-- ==== Sys2Proof/Machine/Operands.lean ====
section
/-! DEFINITION. The operand forms: effective address, immediates, the low byte of a register, and the one-bit steps of
the shifts (`alu_add_sub`, spec/00_scope.md R2). -/

namespace Sys2Proof.Machine

/-- The effective address of an X7 instruction as an integer, no wrap: the base, plus the signed index register unless
the index field is 0 (spec/41_memref_x7.md R100). -/
def State.effAddr (s : State) (x : Reg) (base : Nat) : Int :=
  (base : Int) + (if x = 0 then 0 else (s.reg x).toInt)

/-- The stack slot CALL pushes to: signed(SP) − 1 as an integer (spec/41_memref_x7.md R106). -/
def State.pushSlot (s : State) : Int := s.sp.toInt - 1

/-- The stack slot RET pops from: signed(SP) (spec/47_misc_x1.md R221). -/
def State.popSlot (s : State) : Int := s.sp.toInt

/-- `zext_20(imm20)`, the immediate of LDU (spec/42_immediate_x6.md R120; spec/00_scope.md R13). -/
def immZext (imm : BitVec 20) : Word := imm.zeroExtend 32

/-- `sext_20(imm20)`, the immediate of the other X6 instructions (spec/42_immediate_x6.md R120; spec/00_scope.md R13). -/
def immSext (imm : BitVec 20) : Word := imm.signExtend 32

/-- Bits 7:0 of a register (spec/46_io_x2.md R201). -/
def lowByte (v : Word) : Byte := v.extractLsb' 0 8

/-- A register with its low byte replaced and its upper 24 bits kept (spec/46_io_x2.md R202). -/
def withLowByte (v : Word) (c : Byte) : Word := v.extractLsb' 8 24 ++ c

/-! ## The one-bit steps of the shifts (spec/43_shift_x5.md R140) -/

/-- logical-left: v[30:0] : 0. -/
def stepSll (v : Word) : Word := v.extractLsb' 0 31 ++ 0#1

/-- logical-right: 0 : v[31:1]. -/
def stepSrl (v : Word) : Word := 0#1 ++ v.extractLsb' 1 31

/-- arithmetic-left: v[30:0] : 0, the same function as logical-left (spec/43_shift_x5.md R143). -/
def stepSla (v : Word) : Word := v.extractLsb' 0 31 ++ 0#1

/-- arithmetic-right: v[31] : v[31:1]. -/
def stepSra (v : Word) : Word := v.extractLsb' 31 1 ++ v.extractLsb' 1 31

/-- circular-left: v[30:0] : v[31]. -/
def stepRol (v : Word) : Word := v.extractLsb' 0 31 ++ v.extractLsb' 31 1

/-- circular-right: v[0] : v[31:1]. -/
def stepRor (v : Word) : Word := v.extractLsb' 0 1 ++ v.extractLsb' 1 31

/-- `repeat n times: v = f(v)` (spec/43_shift_x5.md R140). -/
def repeatStep (f : Word → Word) : Nat → Word → Word
  | 0, v => v
  | n + 1, v => repeatStep f n (f v)

end Sys2Proof.Machine
end

