-- ==== Sys2Proof/Machine/Immediate.lean ====
section
/-! DEFINITION. The X6 immediate family (spec/42_immediate_x6.md R120 to R128). -/

namespace Sys2Proof.Machine

/-- LDU (spec/42_immediate_x6.md R121). -/
def execLdu (d : Reg) (imm : BitVec 20) (s : State) : Host.Outcome State Fault Refusal :=
  writeAndAdvance d (immZext imm) s

/-- LDS (spec/42_immediate_x6.md R122). -/
def execLds (d : Reg) (imm : BitVec 20) (s : State) : Host.Outcome State Fault Refusal :=
  writeAndAdvance d (immSext imm) s

/-- ADDI (spec/42_immediate_x6.md R123). -/
def execAddi (d : Reg) (imm : BitVec 20) (s : State) : Host.Outcome State Fault Refusal :=
  writeAndAdvance d (s.reg d + immSext imm) s

/-- SUBI (spec/42_immediate_x6.md R124). -/
def execSubi (d : Reg) (imm : BitVec 20) (s : State) : Host.Outcome State Fault Refusal :=
  writeAndAdvance d (s.reg d - immSext imm) s

/-- ORI (spec/42_immediate_x6.md R125): the PC does not advance; with d = 15 the written value is the next PC. -/
def execOri (d : Reg) (imm : BitVec 20) (s : State) : Host.Outcome State Fault Refusal :=
  complete .transfer (s.setReg d (s.reg d ||| immSext imm))

/-- ANDI (spec/42_immediate_x6.md R126). -/
def execAndi (d : Reg) (imm : BitVec 20) (s : State) : Host.Outcome State Fault Refusal :=
  writeAndAdvance d (s.reg d &&& immSext imm) s

/-- XORI (spec/42_immediate_x6.md R127). -/
def execXori (d : Reg) (imm : BitVec 20) (s : State) : Host.Outcome State Fault Refusal :=
  writeAndAdvance d (s.reg d ^^^ immSext imm) s


end Sys2Proof.Machine
end

