-- ==== Sys2Proof/Machine/Io.lean ====
section
/-! DEFINITION. The X2 I/O family (spec/46_io_x2.md R200 to R204). -/

namespace Sys2Proof.Machine

/-- WCH (spec/46_io_x2.md R201): emit the low byte of register r. -/
def execWch (r : Reg) (s : State) : Host.Outcome State Fault Refusal :=
  complete (.advance 1) (s.emit (.char (lowByte (s.reg r))))

/-- RCH (spec/46_io_x2.md R202): take one character into the low byte of register r, or wait for one. -/
def execRch (r : Reg) (s : State) : Host.Outcome State Fault Refusal :=
  match s.receive with
  | none => hold s
  | some (c, s') => writeAndAdvance r (withLowByte (s.reg r) c) s'

/-- WRL (spec/46_io_x2.md R203): emit the sixteen registers as they stand before the step. -/
def execWrl (r : Reg) (s : State) : Host.Outcome State Fault Refusal :=
  complete (.advance 1) (s.emit (.regLine r s.regs))

end Sys2Proof.Machine
end

