-- ==== Sys2Proof/Machine/MemRef.lean ====
section
/-! DEFINITION. The X7 memory-reference family (spec/41_memref_x7.md R100 to R107). -/

namespace Sys2Proof.Machine

/-- LOAD (spec/41_memref_x7.md R101). -/
def execLoad (d x : Reg) (base : Nat) (s : State) : Host.Outcome State Fault Refusal :=
  withCell s (s.effAddr x base) fun ea => writeAndAdvance d (s.memRead ea) s

/-- STORE (spec/41_memref_x7.md R102): the d field names the source register. -/
def execStore (d x : Reg) (base : Nat) (s : State) : Host.Outcome State Fault Refusal :=
  withCell s (s.effAddr x base) fun ea => complete (.advance 1) (s.memWrite ea (s.reg d))

/-- ADDM (spec/41_memref_x7.md R103). -/
def execAddm (d x : Reg) (base : Nat) (s : State) : Host.Outcome State Fault Refusal :=
  withCell s (s.effAddr x base) fun ea => writeAndAdvance d (s.reg d + s.memRead ea) s

/-- SUBM (spec/41_memref_x7.md R104). -/
def execSubm (d x : Reg) (base : Nat) (s : State) : Host.Outcome State Fault Refusal :=
  withCell s (s.effAddr x base) fun ea => writeAndAdvance d (s.reg d - s.memRead ea) s

/-- JUMP (spec/41_memref_x7.md R105). -/
def execJump (x : Reg) (base : Nat) (s : State) : Host.Outcome State Fault Refusal :=
  withCell s (s.effAddr x base) fun ea => complete .transfer (s.setReg pcReg (BitVec.ofNat 32 ea))

/-- CALL (spec/41_memref_x7.md R106): the effective address is checked first, then the slot; both are computed from
the state before the step; the pushed word is the address of the CALL itself. -/
def execCall (x : Reg) (base : Nat) (s : State) : Host.Outcome State Fault Refusal :=
  withCell s (s.effAddr x base) fun ea =>
    withCell s s.pushSlot fun slot =>
      complete .transfer (((s.memWrite slot s.pc).setReg spReg (s.sp - 1#32)).setReg pcReg (BitVec.ofNat 32 ea))

end Sys2Proof.Machine
end

