-- ==== Sys2Proof/Machine/Misc.lean ====
section
/-! DEFINITION. The X1 misc/control family (spec/47_misc_x1.md R220 to R222) and HALT
(spec/48_execution_driver.md R247). -/

namespace Sys2Proof.Machine

/-- HALT (spec/48_execution_driver.md R247): normal termination; nothing changes, the PC still addresses the word. -/
def execHalt (s : State) : Host.Outcome State Fault Refusal := haltStep s

/-- NOP (spec/47_misc_x1.md R220). -/
def execNop (s : State) : Host.Outcome State Fault Refusal := complete (.advance 1) s

/-- RET (spec/47_misc_x1.md R221): pop the PC, then advance, so execution resumes after the CALL. -/
def execRet (s : State) : Host.Outcome State Fault Refusal :=
  withCell s s.popSlot fun slot =>
    complete (.advance 1) ((s.setReg pcReg (s.memRead slot)).setReg spReg (s.sp + 1#32))

end Sys2Proof.Machine
end

