-- ==== Sys2Proof/Machine/Flags.lean ====
section
/-! DEFINITION. The machine has no flags and no condition codes (spec/10_state.md R28): no instruction leaves one and
no instruction reads one. What takes their place is here: the five conditions of the X4 skips, each computed from the
two registers themselves, `signed(x[s]) OP signed(x[d])`, the source on the left (spec/44_regreg_x4.md R167). -/

namespace Sys2Proof.Machine

/-- SKGT: signed(src) > signed(dst) (spec/44_regreg_x4.md R167). -/
def condGreater (src dst : Word) : Bool := decide (src.toInt > dst.toInt)

/-- SKGE: signed(src) ≥ signed(dst) (spec/44_regreg_x4.md R168). -/
def condGreaterEqual (src dst : Word) : Bool := decide (src.toInt ≥ dst.toInt)

/-- SKEQ: src = dst (spec/44_regreg_x4.md R169). -/
def condEqual (src dst : Word) : Bool := decide (src = dst)

/-- SKLE: signed(src) ≤ signed(dst) (spec/44_regreg_x4.md R170). -/
def condLessEqual (src dst : Word) : Bool := decide (src.toInt ≤ dst.toInt)

/-- SKLT: signed(src) < signed(dst) (spec/44_regreg_x4.md R171). -/
def condLess (src dst : Word) : Bool := decide (src.toInt < dst.toInt)

/-- A conditional skip: advance by 2 when the condition holds, else by 1; no register but the PC is written
(spec/44_regreg_x4.md R167, R173). -/
def skipIf (c : Bool) (s : State) : Host.Outcome State Fault Refusal :=
  complete (.advance (if c then 2 else 1)) s

end Sys2Proof.Machine
end

