-- ==== Sys2Proof/Machine/RegReg.lean ====
section
/-! DEFINITION. The X4 register-register family (spec/44_regreg_x4.md R160 to R173). -/

namespace Sys2Proof.Machine

/-- MOV (spec/44_regreg_x4.md R160, R161). -/
def execMov (d r : Reg) (s : State) : Host.Outcome State Fault Refusal :=
  writeAndAdvance d (s.reg r) s

/-- ADD (spec/44_regreg_x4.md R160, R162). -/
def execAdd (d r : Reg) (s : State) : Host.Outcome State Fault Refusal :=
  writeAndAdvance d (s.reg d + s.reg r) s

/-- SUB (spec/44_regreg_x4.md R160, R163). -/
def execSub (d r : Reg) (s : State) : Host.Outcome State Fault Refusal :=
  writeAndAdvance d (s.reg d - s.reg r) s

/-- OR (spec/44_regreg_x4.md R160, R164). -/
def execOr (d r : Reg) (s : State) : Host.Outcome State Fault Refusal :=
  writeAndAdvance d (s.reg d ||| s.reg r) s

/-- AND (spec/44_regreg_x4.md R160, R165). -/
def execAnd (d r : Reg) (s : State) : Host.Outcome State Fault Refusal :=
  writeAndAdvance d (s.reg d &&& s.reg r) s

/-- XOR (spec/44_regreg_x4.md R160, R166). -/
def execXor (d r : Reg) (s : State) : Host.Outcome State Fault Refusal :=
  writeAndAdvance d (s.reg d ^^^ s.reg r) s

/-- SKGT (spec/44_regreg_x4.md R167). -/
def execSkgt (d r : Reg) (s : State) : Host.Outcome State Fault Refusal :=
  skipIf (condGreater (s.reg r) (s.reg d)) s

/-- SKGE (spec/44_regreg_x4.md R168). -/
def execSkge (d r : Reg) (s : State) : Host.Outcome State Fault Refusal :=
  skipIf (condGreaterEqual (s.reg r) (s.reg d)) s

/-- SKEQ (spec/44_regreg_x4.md R169). -/
def execSkeq (d r : Reg) (s : State) : Host.Outcome State Fault Refusal :=
  skipIf (condEqual (s.reg r) (s.reg d)) s

/-- SKLE (spec/44_regreg_x4.md R170). -/
def execSkle (d r : Reg) (s : State) : Host.Outcome State Fault Refusal :=
  skipIf (condLessEqual (s.reg r) (s.reg d)) s

/-- SKLT (spec/44_regreg_x4.md R171). -/
def execSklt (d r : Reg) (s : State) : Host.Outcome State Fault Refusal :=
  skipIf (condLess (s.reg r) (s.reg d)) s

/-- SKOV: reserved, Not-Implemented, no state change, whatever bits 15:0 hold (spec/44_regreg_x4.md R172). -/
def execSkov (_ignored : BitVec 16) (s : State) : Host.Outcome State Fault Refusal :=
  raise .notImplemented s

/-- SKNOV: reserved, Not-Implemented, no state change, whatever bits 15:0 hold (spec/44_regreg_x4.md R172). -/
def execSknov (_ignored : BitVec 16) (s : State) : Host.Outcome State Fault Refusal :=
  raise .notImplemented s


end Sys2Proof.Machine
end

