-- ==== Sys2Proof/Machine/Shift.lean ====
section
/-! DEFINITION. The X5 shift family (spec/43_shift_x5.md R140 to R147). -/

namespace Sys2Proof.Machine

/-- SLL (spec/43_shift_x5.md R140, R141). -/
def execSll (d : Reg) (n : Nat) (s : State) : Host.Outcome State Fault Refusal :=
  writeAndAdvance d (repeatStep stepSll n (s.reg d)) s

/-- SRL (spec/43_shift_x5.md R140, R142). -/
def execSrl (d : Reg) (n : Nat) (s : State) : Host.Outcome State Fault Refusal :=
  writeAndAdvance d (repeatStep stepSrl n (s.reg d)) s

/-- SLA (spec/43_shift_x5.md R140, R143). -/
def execSla (d : Reg) (n : Nat) (s : State) : Host.Outcome State Fault Refusal :=
  writeAndAdvance d (repeatStep stepSla n (s.reg d)) s

/-- SRA (spec/43_shift_x5.md R140, R144). -/
def execSra (d : Reg) (n : Nat) (s : State) : Host.Outcome State Fault Refusal :=
  writeAndAdvance d (repeatStep stepSra n (s.reg d)) s

/-- ROL (spec/43_shift_x5.md R140, R145). -/
def execRol (d : Reg) (n : Nat) (s : State) : Host.Outcome State Fault Refusal :=
  writeAndAdvance d (repeatStep stepRol n (s.reg d)) s

/-- ROR (spec/43_shift_x5.md R140, R146). -/
def execRor (d : Reg) (n : Nat) (s : State) : Host.Outcome State Fault Refusal :=
  writeAndAdvance d (repeatStep stepRor n (s.reg d)) s


end Sys2Proof.Machine
end

