-- ==== Sys2Proof/Machine/Single.lean ====
section
/-! DEFINITION. The X3 single-register family, all reserved: "A model must not give any X3 word a meaning"
(spec/45_single_x3.md R190, R191), so each word returns Not-Implemented and changes nothing. -/

namespace Sys2Proof.Machine

/-- X3.1: reserved, Not-Implemented, no state change (spec/45_single_x3.md R190). -/
def execX3_1 (_ignored : BitVec 12) (s : State) : Host.Outcome State Fault Refusal :=
  raise .notImplemented s

/-- X3.2: reserved, Not-Implemented, no state change (spec/45_single_x3.md R190). -/
def execX3_2 (_ignored : BitVec 12) (s : State) : Host.Outcome State Fault Refusal :=
  raise .notImplemented s

/-- X3.3: reserved, Not-Implemented, no state change (spec/45_single_x3.md R190). -/
def execX3_3 (_ignored : BitVec 12) (s : State) : Host.Outcome State Fault Refusal :=
  raise .notImplemented s

/-- X3.4: reserved, Not-Implemented, no state change (spec/45_single_x3.md R190). -/
def execX3_4 (_ignored : BitVec 12) (s : State) : Host.Outcome State Fault Refusal :=
  raise .notImplemented s

/-- X3.5: reserved, Not-Implemented, no state change (spec/45_single_x3.md R190). -/
def execX3_5 (_ignored : BitVec 12) (s : State) : Host.Outcome State Fault Refusal :=
  raise .notImplemented s

/-- X3.6: reserved, Not-Implemented, no state change (spec/45_single_x3.md R190). -/
def execX3_6 (_ignored : BitVec 12) (s : State) : Host.Outcome State Fault Refusal :=
  raise .notImplemented s

/-- X3.7: reserved, Not-Implemented, no state change (spec/45_single_x3.md R190). -/
def execX3_7 (_ignored : BitVec 12) (s : State) : Host.Outcome State Fault Refusal :=
  raise .notImplemented s

/-- X3.8: reserved, Not-Implemented, no state change (spec/45_single_x3.md R190). -/
def execX3_8 (_ignored : BitVec 12) (s : State) : Host.Outcome State Fault Refusal :=
  raise .notImplemented s

/-- X3.9: reserved, Not-Implemented, no state change (spec/45_single_x3.md R190). -/
def execX3_9 (_ignored : BitVec 12) (s : State) : Host.Outcome State Fault Refusal :=
  raise .notImplemented s

/-- X3.10: reserved, Not-Implemented, no state change (spec/45_single_x3.md R190). -/
def execX3_10 (_ignored : BitVec 12) (s : State) : Host.Outcome State Fault Refusal :=
  raise .notImplemented s

/-- X3.11: reserved, Not-Implemented, no state change (spec/45_single_x3.md R190). -/
def execX3_11 (_ignored : BitVec 12) (s : State) : Host.Outcome State Fault Refusal :=
  raise .notImplemented s

/-- X3.12: reserved, Not-Implemented, no state change (spec/45_single_x3.md R190). -/
def execX3_12 (_ignored : BitVec 12) (s : State) : Host.Outcome State Fault Refusal :=
  raise .notImplemented s

/-- X3.13: reserved, Not-Implemented, no state change (spec/45_single_x3.md R190). -/
def execX3_13 (_ignored : BitVec 12) (s : State) : Host.Outcome State Fault Refusal :=
  raise .notImplemented s

/-- X3.14: reserved, Not-Implemented, no state change (spec/45_single_x3.md R190). -/
def execX3_14 (_ignored : BitVec 12) (s : State) : Host.Outcome State Fault Refusal :=
  raise .notImplemented s

/-- X3.15: reserved, Not-Implemented, no state change (spec/45_single_x3.md R190). -/
def execX3_15 (_ignored : BitVec 12) (s : State) : Host.Outcome State Fault Refusal :=
  raise .notImplemented s


end Sys2Proof.Machine
end

