-- ==== Sys2Proof/Machine/Dispatch.lean ====
section
/-! DEFINITION. Dispatch: one arm per instruction (spec/48_execution_driver.md R242). -/

namespace Sys2Proof.Machine

def exec (i : Instr) (s : State) : Host.Outcome State Fault Refusal :=
  match i with
  | .halt => Sys2Proof.Machine.execHalt s
  | .load d x base => Sys2Proof.Machine.execLoad d x base s
  | .store d x base => Sys2Proof.Machine.execStore d x base s
  | .addm d x base => Sys2Proof.Machine.execAddm d x base s
  | .subm d x base => Sys2Proof.Machine.execSubm d x base s
  | .jump x base => Sys2Proof.Machine.execJump x base s
  | .call x base => Sys2Proof.Machine.execCall x base s
  | .ldu d imm => Sys2Proof.Machine.execLdu d imm s
  | .lds d imm => Sys2Proof.Machine.execLds d imm s
  | .addi d imm => Sys2Proof.Machine.execAddi d imm s
  | .subi d imm => Sys2Proof.Machine.execSubi d imm s
  | .ori d imm => Sys2Proof.Machine.execOri d imm s
  | .andi d imm => Sys2Proof.Machine.execAndi d imm s
  | .xori d imm => Sys2Proof.Machine.execXori d imm s
  | .sll d n => Sys2Proof.Machine.execSll d n s
  | .srl d n => Sys2Proof.Machine.execSrl d n s
  | .sla d n => Sys2Proof.Machine.execSla d n s
  | .sra d n => Sys2Proof.Machine.execSra d n s
  | .rol d n => Sys2Proof.Machine.execRol d n s
  | .ror d n => Sys2Proof.Machine.execRor d n s
  | .mov d r => Sys2Proof.Machine.execMov d r s
  | .add d r => Sys2Proof.Machine.execAdd d r s
  | .sub d r => Sys2Proof.Machine.execSub d r s
  | .or d r => Sys2Proof.Machine.execOr d r s
  | .and d r => Sys2Proof.Machine.execAnd d r s
  | .xor d r => Sys2Proof.Machine.execXor d r s
  | .skgt d r => Sys2Proof.Machine.execSkgt d r s
  | .skge d r => Sys2Proof.Machine.execSkge d r s
  | .skeq d r => Sys2Proof.Machine.execSkeq d r s
  | .skle d r => Sys2Proof.Machine.execSkle d r s
  | .sklt d r => Sys2Proof.Machine.execSklt d r s
  | .skov ignored => Sys2Proof.Machine.execSkov ignored s
  | .sknov ignored => Sys2Proof.Machine.execSknov ignored s
  | .x3_1 ignored => Sys2Proof.Machine.execX3_1 ignored s
  | .x3_2 ignored => Sys2Proof.Machine.execX3_2 ignored s
  | .x3_3 ignored => Sys2Proof.Machine.execX3_3 ignored s
  | .x3_4 ignored => Sys2Proof.Machine.execX3_4 ignored s
  | .x3_5 ignored => Sys2Proof.Machine.execX3_5 ignored s
  | .x3_6 ignored => Sys2Proof.Machine.execX3_6 ignored s
  | .x3_7 ignored => Sys2Proof.Machine.execX3_7 ignored s
  | .x3_8 ignored => Sys2Proof.Machine.execX3_8 ignored s
  | .x3_9 ignored => Sys2Proof.Machine.execX3_9 ignored s
  | .x3_10 ignored => Sys2Proof.Machine.execX3_10 ignored s
  | .x3_11 ignored => Sys2Proof.Machine.execX3_11 ignored s
  | .x3_12 ignored => Sys2Proof.Machine.execX3_12 ignored s
  | .x3_13 ignored => Sys2Proof.Machine.execX3_13 ignored s
  | .x3_14 ignored => Sys2Proof.Machine.execX3_14 ignored s
  | .x3_15 ignored => Sys2Proof.Machine.execX3_15 ignored s
  | .wch r => Sys2Proof.Machine.execWch r s
  | .rch r => Sys2Proof.Machine.execRch r s
  | .wrl r => Sys2Proof.Machine.execWrl r s
  | .nop => Sys2Proof.Machine.execNop s
  | .ret => Sys2Proof.Machine.execRet s

end Sys2Proof.Machine
end

