-- ==== Sys2Proof/Machine/Step.lean ====
section
/-! DEFINITION. One step of the machine: fetch, decode, execute exactly one instruction
(spec/48_execution_driver.md R240). -/

namespace Sys2Proof.Machine

/-- One step (spec/48_execution_driver.md R240), its checks in the order of R245: fetch range, decode, then the
instruction's own. -/
def step (s : State) : Host.Outcome State Fault Refusal :=
  match s.fetch with
  | none => raise .outOfRange s
  | some w =>
    match decode w with
    | .invalid _ => raise .invalidInstruction s
    | .instr i => exec i s

/-- `s` with the one-word instruction `w` stored at the address `step` fetches from, as the host's write_memory stores
it (spec/70_reset_and_hazards.md R302, R303; notes/assumptions/11.md). Where the PC is outside memory there is no such
cell and nothing is stored. -/
def State.withFetchWord (s : State) (nbits w : Nat) : State :=
  if s.InRange s.pc.toInt then s.memWrite s.pc.toInt.toNat (BitVec.ofNat 32 (w % 2 ^ nbits)) else s

end Sys2Proof.Machine
end

