-- ==== Sys2Proof/Machine/HostPort.lean ====
section
/-! DEFINITION. The host's transactions (spec/49_host_interface.md R260 to R270). Each is one function on the state, so
none overlaps a step (R260); `construct()` is `State.construct` (Machine/State.lean). -/

namespace Sys2Proof.Machine

/-- The number of a status (spec/60_exceptions.md R281; spec/92_eei_decisions.md D22). -/
def Status.code : Status → Nat
  | .ok => 0
  | .halt => 1
  | .invalidInstruction => 2
  | .notImplemented => 3
  | .outOfRange => 4

/-- A word, or the status a host read fails with (spec/49_host_interface.md R261). -/
inductive HostRead where
  | word (v : Word)
  | failed (st : Status)
  deriving DecidableEq, Repr

/-- The register an index names: any integer may be asked for, 0 to 15 exist (spec/49_host_interface.md R263). -/
def regOfIndex (i : Int) : Option Reg :=
  if h : 0 ≤ i ∧ i < 16 then some ⟨i.toNat, by omega⟩ else none

/-- `get_register(i)` (spec/49_host_interface.md R263); it changes nothing. -/
def getRegister (i : Int) (s : State) : HostRead :=
  match regOfIndex i with
  | some r => .word (s.reg r)
  | none => .failed .outOfRange

/-- `set_register(i, v)` (spec/49_host_interface.md R264): any word is accepted for a valid index. -/
def setRegister (i : Int) (v : Word) (s : State) : Status × State :=
  match regOfIndex i with
  | some r => (.ok, s.setReg r v)
  | none => (.outOfRange, s)

/-- `read_memory(addr)` (spec/49_host_interface.md R265); it changes nothing. -/
def readMemory (a : Int) (s : State) : HostRead :=
  if s.InRange a then .word (s.memRead a.toNat) else .failed .outOfRange

/-- `write_memory(addr, v)` (spec/49_host_interface.md R266). -/
def writeMemory (a : Int) (v : Word) (s : State) : Status × State :=
  if s.InRange a then (.ok, s.memWrite a.toNat v) else (.outOfRange, s)

/-- Load a program: its (address, word) pairs, each written with write_memory (spec/49_host_interface.md R268). -/
def loadImage : List (Int × Word) → State → State
  | [], s => s
  | (a, v) :: rest, s => loadImage rest (writeMemory a v s).2

/-- The host supplies one input character, taken only by RCH (spec/49_host_interface.md R261, R269). -/
def supplyChar (c : Byte) (s : State) : State := { s with inp := s.inp ++ [c] }

/-- `step() → status` (spec/49_host_interface.md R267): the status returned and the state after; nothing while the step
waits in RCH (spec/48_execution_driver.md R249, R253). A fault leaves the state of the step before it (R246). -/
def hostStep (s : State) : Option (Status × State) :=
  match step s with
  | .next t =>
    match t.status with
    | some st => some (st, t)
    | none => none
  | .fault f => some (f.toStatus, s.returning (some f.toStatus))
  | .refused _ => none

/-- How an executor of `run()` ends (spec/48_execution_driver.md R250, R251): the core returned a status, or it waits in
RCH, or the executor's fuel is spent, which is no status of the core. -/
inductive RunResult where
  | returned (st : Status) (s : State)
  | waiting (s : State)
  | outOfFuel (s : State)
  deriving DecidableEq, Repr

/-- `run() → status` under fuel (spec/48_execution_driver.md R250, R251): repeat step while the status is OK, return the
first status that is not OK. -/
def run : Nat → State → RunResult
  | 0, s => .outOfFuel s
  | n + 1, s =>
    match hostStep s with
    | none => .waiting s
    | some (.ok, t) => run n t
    | some (st, t) => .returned st t

end Sys2Proof.Machine
end

