-- ==== Sys2Proof/Safety.lean ====
section
/-! DEFINITION. The vocabulary of the claims: the invariant of the machine, what counts as a normal end, and frames. -/

namespace Sys2Proof.Machine

/-! ## The invariant -/

/-- SIZE is in the range the spec allows (spec/00_scope.md R9). -/
abbrev SizeOk (size : Nat) : Prop := Config.minSize ≤ size ∧ size ≤ Config.maxSize

/-- SIZE is in range, memory is in its canonical form, and every listed cell is a cell of memory
(spec/00_scope.md R9; spec/10_state.md R31; notes/assumptions/2.md). -/
def State.Inv (s : State) : Prop := SizeOk s.size ∧ s.mem.Canonical ∧ ∀ c ∈ s.mem, c.1 < s.size

/-! ## Ends of a run -/

/-- `OkSteps k s t`: k steps from s, each returning OK, lead to t (spec/48_execution_driver.md R250). -/
inductive OkSteps : Nat → State → State → Prop where
  | zero (s : State) : OkSteps 0 s s
  | succ {k : Nat} {s t u : State} (h : hostStep s = some (.ok, t)) (rest : OkSteps k t u) : OkSteps (k + 1) s u

/-- A run from `s` ends normally in `t`: after some OK steps a step returns Halt (spec/48_execution_driver.md R252). -/
def NormalEnd (s t : State) : Prop := ∃ k u, OkSteps k s u ∧ hostStep u = some (.halt, t)

/-- No step of a run from `s` returns a fault status (spec/60_exceptions.md R295). -/
def FaultFree (s : State) : Prop := ∀ k u, OkSteps k s u → ∀ f, step u ≠ .fault f

/-! ## Classes of instructions -/

/-- JUMP, CALL and ORI set the PC explicitly (spec/48_execution_driver.md R243). -/
def transfers (i : Instr) : Bool :=
  match i.familyOpcode with
  | some (.x7, op) => op == 5 || op == 6
  | some (.x6, op) => op == 5
  | _ => false

/-- SKGT, SKGE, SKEQ, SKLE, SKLT (spec/44_regreg_x4.md R173). -/
def isSkip (i : Instr) : Bool :=
  match i.familyOpcode with
  | some (.x4, op) => 7 ≤ op && op ≤ 11
  | _ => false

/-- X3.1 to X3.15, SKOV and SKNOV (spec/30_encoding.md R77). -/
def isReserved (i : Instr) : Bool :=
  match i.familyOpcode with
  | some (.x3, _) => true
  | some (.x4, op) => op == 12 || op == 13
  | _ => false

/-- The index register and the base of an X7 instruction (spec/41_memref_x7.md R100). -/
def memOperand : Instr → Option (Reg × Nat)
  | .load _ x base => some (x, base)
  | .store _ x base => some (x, base)
  | .addm _ x base => some (x, base)
  | .subm _ x base => some (x, base)
  | .jump x base => some (x, base)
  | .call x base => some (x, base)
  | _ => none

/-- The registers an instruction's rule writes, the PC action apart (spec/41_memref_x7.md to spec/47_misc_x1.md). -/
def writtenRegs : Instr → List Reg
  | .halt => []
  | .load d _ _ => [d]
  | .store _ _ _ => []
  | .addm d _ _ => [d]
  | .subm d _ _ => [d]
  | .jump _ _ => [pcReg]
  | .call _ _ => [spReg, pcReg]
  | .ldu d _ => [d]
  | .lds d _ => [d]
  | .addi d _ => [d]
  | .subi d _ => [d]
  | .ori d _ => [d]
  | .andi d _ => [d]
  | .xori d _ => [d]
  | .sll d _ => [d]
  | .srl d _ => [d]
  | .sla d _ => [d]
  | .sra d _ => [d]
  | .rol d _ => [d]
  | .ror d _ => [d]
  | .mov d _ => [d]
  | .add d _ => [d]
  | .sub d _ => [d]
  | .or d _ => [d]
  | .and d _ => [d]
  | .xor d _ => [d]
  | .skgt _ _ => []
  | .skge _ _ => []
  | .skeq _ _ => []
  | .skle _ _ => []
  | .sklt _ _ => []
  | .skov _ => []
  | .sknov _ => []
  | .x3_1 _ => []
  | .x3_2 _ => []
  | .x3_3 _ => []
  | .x3_4 _ => []
  | .x3_5 _ => []
  | .x3_6 _ => []
  | .x3_7 _ => []
  | .x3_8 _ => []
  | .x3_9 _ => []
  | .x3_10 _ => []
  | .x3_11 _ => []
  | .x3_12 _ => []
  | .x3_13 _ => []
  | .x3_14 _ => []
  | .x3_15 _ => []
  | .wch _ => []
  | .rch r => [r]
  | .wrl _ => []
  | .nop => []
  | .ret => [pcReg, spReg]

/-! ## Frames -/

/-- Every register outside the list holds what it held. -/
def SameRegsBut (ds : List Reg) (s t : State) : Prop := ∀ k, k ∉ ds → t.reg k = s.reg k

/-- Every word of memory reads as before. -/
def SameMemory (s t : State) : Prop := ∀ a, t.memRead a = s.memRead a

/-- Every word of memory outside address `a` reads as before. -/
def SameMemoryBut (a : Nat) (s t : State) : Prop := ∀ b, b ≠ a → t.memRead b = s.memRead b

/-- Both character streams and the memory size are as before. -/
def SameHostSide (s t : State) : Prop := t.out = s.out ∧ t.inp = s.inp ∧ t.size = s.size

/-- Everything is as before but the status returned. -/
def SameMachine (s t : State) : Prop := SameRegsBut [] s t ∧ SameMemory s t ∧ SameHostSide s t

/-- Register `d` holds `v` and the PC has advanced by 1; with d = 15 the written value is advanced (spec/10_state.md R23).
Nothing else of registers, memory or streams changes, and the step returned OK. -/
def WroteRegister (d : Reg) (v : Word) (s t : State) : Prop :=
  (if d = pcReg then t.pc = v + 1#32 else t.reg d = v ∧ t.pc = s.pc + 1#32) ∧
  SameRegsBut [d, pcReg] s t ∧ SameMemory s t ∧ SameHostSide s t ∧ t.status = some .ok

/-- The PC has advanced by `n`; nothing else of registers, memory or streams changes, and the step returned OK. -/
def Advanced (n : Nat) (s t : State) : Prop :=
  t.pc = s.pc + BitVec.ofNat 32 n ∧ SameRegsBut [pcReg] s t ∧ SameMemory s t ∧ SameHostSide s t ∧ t.status = some .ok

end Sys2Proof.Machine
end

