-- ==== Sys2Proof/Certificates/Slice0/Obligations.lean ====
section
/-! DEFINITION. The statements for the provers. A docstring cites the rule of spec/ a statement formalises; where a clause
rests on one of the spec's own decisions (spec/92_eei_decisions.md) or derivations, or on a choice of the model
(notes/assumptions), the docstring names it. -/

open Sys2Proof Sys2Proof.Machine

/-! ## Encoding and decoding -/

/-- Decode inverts encode on every well-formed instruction (spec/30_encoding.md R81, R83; the field positions are
decision D2). -/
def Obligations.DecodeOfEncodeGivesInstruction : Prop :=
  ∀ i : Instr, i.WellFormed → decode (encode i) = .instr i

/-- Encode inverts decode: the decoder gives only well-formed instructions and drops no bit of a word it accepts
(spec/30_encoding.md R81, R82, R83). -/
def Obligations.EncodeOfDecodeGivesWord : Prop :=
  ∀ (w : Word) (i : Instr), decode w = .instr i → i.WellFormed ∧ encode i = w

/-- A word decodes to an instruction of a row of the opcode table exactly when it holds the row's fixed fields: so rows
are disjoint, and a word of no row is invalid (spec/30_encoding.md R82, derived there). -/
def Obligations.OpcodeTableRowsDecideDecoding : Prop :=
  ∀ w : Word,
    (∀ i : Instr, decode w = .instr i → i.row.matchesWord w = true) ∧
    (∀ i : Instr, i.row.matchesWord w = true → ∃ j, decode w = .instr j ∧ j.row = i.row) ∧
    ((∀ i : Instr, i.row.matchesWord w = false) → ∃ why, decode w = .invalid why)

/-- The family is chosen by the most significant non-zero nibble, and that nibble is the opcode: every bit above it is 0
(spec/30_encoding.md R61, R62). -/
def Obligations.SelectorIsMostSignificantNonzeroNibble : Prop :=
  ∀ (w : Word) (i : Instr) (f : Family) (op : Nat),
    decode w = .instr i → i.familyOpcode = some (f, op) →
      w.toNat < 2 ^ (f.selectorLow + 4) ∧ w.toNat / 2 ^ f.selectorLow = op ∧ op ≠ 0

/-- Sample words, written out from the encodings of spec/30_encoding.md and spec/95_test_vectors.md L2.1. -/
def Obligations.SampleWordsDecode : Prop :=
  decode 0x00000000#32 = .instr .halt ∧
  decode 0x12345678#32 = .instr (.load 3 2 0x45678) ∧
  decode 0x60000040#32 = .instr (.call 0 0x40) ∧
  decode 0x021FFFFF#32 = .instr (.lds 1 0xFFFFF#20) ∧
  decode 0x00112000#32 = .instr (.sll 1 4) ∧
  decode 0x00091200#32 = .instr (.skeq 1 2) ∧
  decode 0x00001FFF#32 = .instr (.x3_1 0xFFF#12) ∧
  decode 0x00000310#32 = .instr (.wrl 1) ∧
  decode 0x00000020#32 = .instr .ret ∧
  decode 0x50100000#32 = .invalid .shouldBeZero ∧
  decode 0x00FFFFFF#32 = .invalid .undefinedOpcode ∧
  decode 0x0000000F#32 = .invalid .noFamily

/-- The undefined opcodes are exactly those of the table of spec/30_encoding.md R78, each found in the selector nibble
with every higher bit 0. -/
def Obligations.UndefinedOpcodesAreExactlyTheTables : Prop :=
  ∀ w : Word, decode w = .invalid .undefinedOpcode ↔
    (7 ≤ w.toNat / 2 ^ 28) ∨
    (8 ≤ w.toNat / 2 ^ 24 ∧ w.toNat / 2 ^ 24 ≤ 15) ∨
    (7 ≤ w.toNat / 2 ^ 20 ∧ w.toNat / 2 ^ 20 ≤ 15) ∨
    (14 ≤ w.toNat / 2 ^ 16 ∧ w.toNat / 2 ^ 16 ≤ 15) ∨
    (4 ≤ w.toNat / 2 ^ 8 ∧ w.toNat / 2 ^ 8 ≤ 15) ∨
    (3 ≤ w.toNat / 2 ^ 4 ∧ w.toNat / 2 ^ 4 ≤ 15)

/-- The should-be-zero check: exactly a defined opcode of X5, X4, X2, X1 with a bit below its fields set, or JUMP or CALL
with a non-zero d field (spec/30_encoding.md R72; decision D3 of spec/92_eei_decisions.md). -/
def Obligations.ShouldBeZeroBitsAreChecked : Prop :=
  ∀ w : Word, decode w = .invalid .shouldBeZero ↔
    ((w.toNat / 2 ^ 28 = 5 ∨ w.toNat / 2 ^ 28 = 6) ∧ w.toNat / 2 ^ 20 % 16 ≠ 0) ∨
    (1 ≤ w.toNat / 2 ^ 20 ∧ w.toNat / 2 ^ 20 ≤ 6 ∧ w.toNat % 2 ^ 11 ≠ 0) ∨
    (1 ≤ w.toNat / 2 ^ 16 ∧ w.toNat / 2 ^ 16 ≤ 11 ∧ w.toNat % 2 ^ 8 ≠ 0) ∨
    (1 ≤ w.toNat / 2 ^ 8 ∧ w.toNat / 2 ^ 8 ≤ 3 ∧ w.toNat % 2 ^ 4 ≠ 0) ∨
    (1 ≤ w.toNat / 2 ^ 4 ∧ w.toNat / 2 ^ 4 ≤ 2 ∧ w.toNat % 2 ^ 4 ≠ 0)

/-- A word has no family exactly when it is 1 to 15 (spec/30_encoding.md R64; decision D3). -/
def Obligations.WordsWithoutFamilyAreInvalid : Prop :=
  ∀ w : Word, decode w = .invalid .noFamily ↔ 0 < w.toNat ∧ w.toNat < 16

/-- Every word of X3 and every word of X4 opcodes 0xC and 0xD, whatever its lower bits, makes its step return
Not-Implemented (spec/30_encoding.md R77; decisions D10, D11). -/
def Obligations.ReservedWordsReturnNotImplemented : Prop :=
  ∀ (s : State) (w : Word), s.fetch = some w →
    (w.toNat / 2 ^ 16 = 12 ∨ w.toNat / 2 ^ 16 = 13 ∨ (1 ≤ w.toNat / 2 ^ 12 ∧ w.toNat / 2 ^ 12 ≤ 15)) →
      step s = .fault .notImplemented

/-! ## Reset and the invariant -/

/-- `construct()` zero-initializes every register and every memory cell, for every memory size
(spec/49_host_interface.md R262; spec/10_state.md R35). That the output stream is empty is R35; that reset is the
construction of some size the spec allows (spec/00_scope.md R9; decision D1) is the model's choice of 4096 words,
notes/assumptions/1.md. -/
def Obligations.ConstructZeroesRegistersAndMemory : Prop :=
  (∀ (size : Nat) (r : Reg) (a : Nat),
    (State.construct size).reg r = 0#32 ∧ (State.construct size).memRead a = 0#32 ∧
    (State.construct size).out = [] ∧ (State.construct size).size = size) ∧
  ∃ size, SizeOk size ∧ State.reset = State.construct size

/-- A step on a freshly constructed machine of any size the spec allows returns Halt and changes nothing
(spec/70_reset_and_hazards.md R301, derived there). -/
def Obligations.FreshMachineHalts : Prop :=
  ∀ size : Nat, SizeOk size →
    ∃ t, step (State.construct size) = .next t ∧ t.status = some .halt ∧ SameMachine (State.construct size) t

/-- The invariant holds at reset (spec/00_scope.md R9; spec/10_state.md R31, R35; the canonical form of memory is the
model's choice, notes/assumptions/2.md). -/
def Obligations.InvariantHoldsAtReset : Prop :=
  State.reset.Inv

/-- Every step keeps the invariant, from every state that has it: SIZE stays in range, memory stays canonical and inside
[0, SIZE) (spec/00_scope.md R9; spec/10_state.md R31; spec/20_memory.md R41; notes/assumptions/2.md). -/
def Obligations.StepKeepsInvariant : Prop :=
  ∀ s t : State, s.Inv → step s = .next t → t.Inv

/-! ## The step -/

/-- When the PC addresses a cell of memory whose word decodes to an instruction, the step is that instruction's own
(spec/48_execution_driver.md R240, R241, R242). Nothing stands around `exec`: the PC action is part of it. -/
def Obligations.StepRunsDecodedInstruction : Prop :=
  ∀ (s : State) (i : Instr), 0 ≤ s.pc.toInt → s.pc.toInt < s.size →
    decode (s.memRead s.pc.toNat) = .instr i → step s = exec i s

/-- The first two checks of a step: the PC outside [0, SIZE) is Out-of-Range before anything is decoded, and a word with
no instruction is Invalid-Instruction (spec/48_execution_driver.md R240, R245; decisions D5, D23). -/
def Obligations.StepChecksFetchThenDecode : Prop :=
  ∀ s : State,
    ((s.pc.toInt < 0 ∨ (s.size : Int) ≤ s.pc.toInt) → step s = .fault .outOfRange) ∧
    (∀ why, 0 ≤ s.pc.toInt → s.pc.toInt < s.size → decode (s.memRead s.pc.toNat) = .invalid why →
      step s = .fault .invalidInstruction)

/-- No instruction is refused: every step of every state answers a next state or one of the spec's faults
(spec/48_execution_driver.md R249). -/
def Obligations.StepNeverRefuses : Prop :=
  ∀ (s : State) (r : Refusal), step s ≠ .refused r

/-- The causes of each fault of a step, and no others (spec/60_exceptions.md R282; spec/48_execution_driver.md R245;
decisions D3, D5, D10, D11, D23). -/
def Obligations.StepFaultsExactlyByCause : Prop :=
  ∀ s : State,
    (step s = .fault .invalidInstruction ↔ ∃ w why, s.fetch = some w ∧ decode w = .invalid why) ∧
    (step s = .fault .notImplemented ↔ ∃ w i, s.fetch = some w ∧ decode w = .instr i ∧ isReserved i = true) ∧
    (step s = .fault .outOfRange ↔
      ¬ s.InRange s.pc.toInt ∨
      ∃ w i, s.fetch = some w ∧ decode w = .instr i ∧
        ((∃ x base, memOperand i = some (x, base) ∧ ¬ s.InRange (s.effAddr x base)) ∨
         ((∃ x base, i = .call x base) ∧ ¬ s.InRange (s.sp.toInt - 1)) ∨
         (i = .ret ∧ ¬ s.InRange s.sp.toInt)))

/-- The zero word is HALT; its step returns Halt and leaves every register (the PC too), all memory and both streams as
they were (spec/48_execution_driver.md R247). -/
def Obligations.HaltChangesNothing : Prop :=
  decode 0#32 = .instr .halt ∧
  ∀ s : State, ∃ t, exec .halt s = .next t ∧ t.status = some .halt ∧ SameMachine s t

/-- A step that returns anything other than OK leaves registers, memory and streams as they were
(spec/48_execution_driver.md R246, R247; decision D16). -/
def Obligations.NonOkStatusChangesNothing : Prop :=
  ∀ (s t : State) (st : Status), hostStep s = some (st, t) → st ≠ .ok → SameMachine s t

/-- Halt and the faults repeat: without a change by the host, the next step returns the same status and changes nothing
(spec/48_execution_driver.md R248, R250; decision D30). -/
def Obligations.HaltAndFaultsRepeat : Prop :=
  ∀ (s t : State) (st : Status), hostStep s = some (st, t) → st ≠ .ok → hostStep t = some (st, t)

/-- The PC rule of every instruction that is no explicit transfer and does not write register 15: advance by 1, or by 2
for a taken skip (spec/48_execution_driver.md R243; spec/95_test_vectors.md L2.11; decision D6 for the wrap). -/
def Obligations.NonTransferAdvancesPc : Prop :=
  ∀ (s t : State) (i : Instr), exec i s = .next t → t.status = some .ok →
    transfers i = false → pcReg ∉ writtenRegs i →
      t.pc = s.pc + 1#32 ∨ (isSkip i = true ∧ t.pc = s.pc + 2#32)

/-- The frame of registers over all instructions: a register the instruction's rule does not write, other than the PC,
keeps its word; and a step that halts or waits keeps the PC too (spec/41_memref_x7.md to spec/48_execution_driver.md). -/
def Obligations.UnwrittenRegistersKeepTheirWords : Prop :=
  ∀ (s t : State) (i : Instr), exec i s = .next t →
    SameRegsBut (pcReg :: writtenRegs i) s t ∧ (t.status ≠ some .ok → t.pc = s.pc)

/-- Only STORE and CALL write memory (spec/10_state.md R32; spec/20_memory.md R42). -/
def Obligations.OnlyStoreAndCallWriteMemory : Prop :=
  ∀ (s t : State) (i : Instr), exec i s = .next t →
    (∀ d x base, i ≠ .store d x base) → (∀ x base, i ≠ .call x base) → SameMemory s t

/-- The streams: a step appends at most one event and takes at most one character, the oldest; only WCH and WRL emit,
only RCH takes; SIZE never changes (spec/10_state.md R33; spec/46_io_x2.md R200). -/
def Obligations.StreamsChangeOnlyByIoInstructions : Prop :=
  ∀ (s t : State) (i : Instr), exec i s = .next t →
    (∃ es, t.out = s.out ++ es ∧ es.length ≤ 1 ∧ (es ≠ [] → ∃ r, i = .wch r ∨ i = .wrl r)) ∧
    (∃ cs, s.inp = cs ++ t.inp ∧ cs.length ≤ 1 ∧ (cs ≠ [] → ∃ r, i = .rch r)) ∧
    t.size = s.size

/-! ## X7 -/

/-- The effective address as an integer and as a wrapped 32-bit sum read as signed give the same verdict and the same
in-range address, for every memory size the spec allows (spec/41_memref_x7.md R100, derived there; decision D4). -/
def Obligations.IntegerAndWrappedAddressAgree : Prop :=
  ∀ (s : State) (x : Reg) (base : Nat), SizeOk s.size → base < 2 ^ 20 →
    let wrapped := (BitVec.ofNat 32 base + (if x = 0 then 0#32 else s.reg x)).toInt
    (s.InRange (s.effAddr x base) ↔ s.InRange wrapped) ∧ (s.InRange wrapped → s.effAddr x base = wrapped)

/-- LOAD: its word; the register named by d takes Mem[EA] and the PC advances, where EA is base plus the signed index
register, or base alone when the index field is 0; EA outside memory is Out-of-Range (spec/41_memref_x7.md R101;
decisions D2 for the places of the fields, D4, D5). -/
def Obligations.LoadWritesMemoryWord : Prop :=
  ∀ (s : State) (d x : Reg) (base : Nat),
    (base < 2 ^ 20 → decode (BitVec.ofNat 32 (1 * 2 ^ 28 + x.val * 2 ^ 24 + d.val * 2 ^ 20 + base)) = .instr (.load d x base)) ∧
    let ea : Int := base + (if x = 0 then 0 else (s.reg x).toInt)
    if 0 ≤ ea ∧ ea < s.size then
      ∃ t, exec (.load d x base) s = .next t ∧ WroteRegister d (s.memRead ea.toNat) s t
    else exec (.load d x base) s = .fault .outOfRange

/-- STORE: its word; Mem[EA] takes the register named by d, every other cell and every register but the PC stays, and
the PC advances; EA outside memory is Out-of-Range (spec/41_memref_x7.md R102, the direction derived there). -/
def Obligations.StoreWritesOneCell : Prop :=
  ∀ (s : State) (d x : Reg) (base : Nat),
    (base < 2 ^ 20 → decode (BitVec.ofNat 32 (2 * 2 ^ 28 + x.val * 2 ^ 24 + d.val * 2 ^ 20 + base)) = .instr (.store d x base)) ∧
    if s.InRange (s.effAddr x base) then
      ∃ t, exec (.store d x base) s = .next t ∧
        t.memRead (s.effAddr x base).toNat = s.reg d ∧ SameMemoryBut (s.effAddr x base).toNat s t ∧
        SameRegsBut [pcReg] s t ∧ t.pc = s.pc + 1#32 ∧ SameHostSide s t ∧ t.status = some .ok
    else exec (.store d x base) s = .fault .outOfRange

/-- ADDM and SUBM: register d plus or minus Mem[EA], wrapping; EA outside memory is Out-of-Range
(spec/41_memref_x7.md R103, R104; decision D6, the order of SUBM derived there). -/
def Obligations.AddmSubmCombineMemoryWord : Prop :=
  ∀ (s : State) (d x : Reg) (base : Nat),
    if s.InRange (s.effAddr x base) then
      (∃ t, exec (.addm d x base) s = .next t ∧
        WroteRegister d (s.reg d + s.memRead (s.effAddr x base).toNat) s t) ∧
      (∃ t, exec (.subm d x base) s = .next t ∧
        WroteRegister d (s.reg d - s.memRead (s.effAddr x base).toNat) s t)
    else exec (.addm d x base) s = .fault .outOfRange ∧ exec (.subm d x base) s = .fault .outOfRange

/-- JUMP: the PC is the effective address, not advanced, and nothing else changes; EA outside memory is Out-of-Range
(spec/41_memref_x7.md R105; decisions D3, D5). -/
def Obligations.JumpSetsPc : Prop :=
  ∀ (s : State) (x : Reg) (base : Nat),
    if s.InRange (s.effAddr x base) then
      ∃ t, exec (.jump x base) s = .next t ∧ t.pc = BitVec.ofInt 32 (s.effAddr x base) ∧
        SameRegsBut [pcReg] s t ∧ SameMemory s t ∧ SameHostSide s t ∧ t.status = some .ok
    else exec (.jump x base) s = .fault .outOfRange

/-- CALL: the address of the CALL itself goes to Mem[SP − 1], SP drops by 1, the PC is the effective address of the state
before; no other cell or register changes. EA or slot outside memory is Out-of-Range (spec/41_memref_x7.md R106;
decisions D5, D14). -/
def Obligations.CallPushesOwnAddress : Prop :=
  ∀ (s : State) (x : Reg) (base : Nat),
    if s.InRange (s.effAddr x base) ∧ s.InRange (s.sp.toInt - 1) then
      ∃ t, exec (.call x base) s = .next t ∧ t.memRead (s.sp.toInt - 1).toNat = s.pc ∧
        SameMemoryBut (s.sp.toInt - 1).toNat s t ∧ t.sp = s.sp - 1#32 ∧
        t.pc = BitVec.ofInt 32 (s.effAddr x base) ∧ SameRegsBut [spReg, pcReg] s t ∧
        SameHostSide s t ∧ t.status = some .ok
    else exec (.call x base) s = .fault .outOfRange

/-- A CALL followed, at its target, by a RET resumes after the CALL with SP and every other register restored
(the source's property quoted in spec/41_memref_x7.md R106 and spec/47_misc_x1.md R221; decisions D14, D15). -/
def Obligations.CallThenRetResumesAfterCall : Prop :=
  ∀ (s t : State) (x : Reg) (base : Nat) (w : Word),
    s.fetch = some w → decode w = .instr (.call x base) → step s = .next t → t.fetch = some 0x00000020#32 →
      ∃ u, step t = .next u ∧ u.pc = s.pc + 1#32 ∧ SameRegsBut [pcReg] s u ∧ u.memRead (s.sp.toInt - 1).toNat = s.pc

/-- `JUMP 0(R15)` jumps to its own address: once it is fetched, the machine repeats one state for ever
(spec/41_memref_x7.md R105; spec/93_implementation_defined.md K20). -/
def Obligations.JumpToSelfRepeats : Prop :=
  ∀ s : State, s.fetch = some 0x5F000000#32 →
    ∃ t, step s = .next t ∧ SameMachine s t ∧ t.status = some .ok ∧ step t = .next t

/-- A STORE of an instruction's word into the next address is seen by the next fetch, with no fence
(spec/20_memory.md R54, derived there). -/
def Obligations.StoredInstructionRunsNext : Prop :=
  ∀ (s : State) (w : Word) (d x : Reg) (base : Nat) (i : Instr),
    s.fetch = some w → decode w = .instr (.store d x base) → s.effAddr x base = s.pc.toInt + 1 →
      s.InRange (s.pc.toInt + 1) → s.size ≤ 2 ^ 31 → decode (s.reg d) = .instr i →
        ∃ t, step s = .next t ∧ t.fetch = some (s.reg d) ∧ step t = exec i t

/-! ## X6 -/

/-- LDU and LDS: their words and their results, the 20-bit immediate zero-extended and sign-extended
(spec/42_immediate_x6.md R121, R122; decision D7 for the extension of LDU, notes/assumptions/8.md). -/
def Obligations.LoadImmediatesExtend : Prop :=
  ∀ (s : State) (d : Reg) (imm : BitVec 20),
    decode (BitVec.ofNat 32 (1 * 2 ^ 24 + d.val * 2 ^ 20 + imm.toNat)) = .instr (.ldu d imm) ∧
    (∃ t, exec (.ldu d imm) s = .next t ∧ WroteRegister d (imm.setWidth 32) s t) ∧
    decode (BitVec.ofNat 32 (2 * 2 ^ 24 + d.val * 2 ^ 20 + imm.toNat)) = .instr (.lds d imm) ∧
    (∃ t, exec (.lds d imm) s = .next t ∧ WroteRegister d (imm.signExtend 32) s t)

/-- LDS with bit 19 of the immediate set loads value | 0xFFF00000, with bit 19 clear the value unchanged
(the source's property, quoted in spec/42_immediate_x6.md R122 and spec/95_test_vectors.md S2). -/
def Obligations.LdsSetsUpperBitsBySign : Prop :=
  ∀ (s : State) (d : Reg) (imm : BitVec 20), ∃ t, exec (.lds d imm) s = .next t ∧
    WroteRegister d (if 2 ^ 19 ≤ imm.toNat then BitVec.ofNat 32 imm.toNat ||| 0xFFF00000#32
      else BitVec.ofNat 32 imm.toNat) s t

/-- ADDI and SUBI add and subtract the sign-extended immediate, wrapping (spec/42_immediate_x6.md R123, R124;
decisions D6, D7). -/
def Obligations.AddiSubiResults : Prop :=
  ∀ (s : State) (d : Reg) (imm : BitVec 20),
    (∃ t, exec (.addi d imm) s = .next t ∧ WroteRegister d (s.reg d + imm.signExtend 32) s t) ∧
    (∃ t, exec (.subi d imm) s = .next t ∧ WroteRegister d (s.reg d - imm.signExtend 32) s t)

/-- ANDI and XORI: their words and their results with the sign-extended immediate (spec/42_immediate_x6.md R126, R127;
decision D7 for the extension). -/
def Obligations.AndiXoriResults : Prop :=
  ∀ (s : State) (d : Reg) (imm : BitVec 20),
    decode (BitVec.ofNat 32 (6 * 2 ^ 24 + d.val * 2 ^ 20 + imm.toNat)) = .instr (.andi d imm) ∧
    (∃ t, exec (.andi d imm) s = .next t ∧ WroteRegister d (s.reg d &&& imm.signExtend 32) s t) ∧
    decode (BitVec.ofNat 32 (7 * 2 ^ 24 + d.val * 2 ^ 20 + imm.toNat)) = .instr (.xori d imm) ∧
    (∃ t, exec (.xori d imm) s = .next t ∧ WroteRegister d (s.reg d ^^^ imm.signExtend 32) s t)

/-- ORI writes register d and does not advance the PC; nothing but register d changes, so with d = 15 it is a jump
(spec/42_immediate_x6.md R125; decision D8). -/
def Obligations.OriDoesNotAdvance : Prop :=
  ∀ (s : State) (d : Reg) (imm : BitVec 20), ∃ t, exec (.ori d imm) s = .next t ∧
    t.reg d = s.reg d ||| imm.signExtend 32 ∧ SameRegsBut [d] s t ∧ SameMemory s t ∧ SameHostSide s t ∧
    t.status = some .ok

/-- A run that reaches an ORI with d ≠ 15 never leaves it: its second step repeats the state for ever
(spec/42_immediate_x6.md R125; decision D8). -/
def Obligations.OriWithOtherRegisterHangs : Prop :=
  ∀ (s : State) (d : Reg) (imm : BitVec 20) (w : Word), s.fetch = some w → decode w = .instr (.ori d imm) →
    d ≠ pcReg → ∃ t, step s = .next t ∧ t.pc = s.pc ∧ step t = .next t

/-! ## X5 -/

/-- SLL, SRL and SRA: their words, and n iterations of the one-bit step of the rule's table
(spec/43_shift_x5.md R141, R142, R144 with R140; decision D2 for the places of the fields). -/
def Obligations.ShiftsIterateOneBitSteps : Prop :=
  ∀ (s : State) (d : Reg) (n : Nat),
    (n < 32 → decode (BitVec.ofNat 32 (1 * 2 ^ 20 + d.val * 2 ^ 16 + n * 2 ^ 11)) = .instr (.sll d n)) ∧
    (∃ t, exec (.sll d n) s = .next t ∧
      WroteRegister d ((fun v : Word => v.extractLsb' 0 31 ++ 0#1)^[n] (s.reg d)) s t) ∧
    (n < 32 → decode (BitVec.ofNat 32 (2 * 2 ^ 20 + d.val * 2 ^ 16 + n * 2 ^ 11)) = .instr (.srl d n)) ∧
    (∃ t, exec (.srl d n) s = .next t ∧
      WroteRegister d ((fun v : Word => 0#1 ++ v.extractLsb' 1 31)^[n] (s.reg d)) s t) ∧
    (n < 32 → decode (BitVec.ofNat 32 (4 * 2 ^ 20 + d.val * 2 ^ 16 + n * 2 ^ 11)) = .instr (.sra d n)) ∧
    (∃ t, exec (.sra d n) s = .next t ∧
      WroteRegister d ((fun v : Word => v.extractLsb' 31 1 ++ v.extractLsb' 1 31)^[n] (s.reg d)) s t)

/-- SLA, ROL and ROR: n iterations of their one-bit steps; SLA's is SLL's (spec/43_shift_x5.md R143, R145, R146 with
R140; decision D9). -/
def Obligations.SlaAndRotatesIterateOneBitSteps : Prop :=
  ∀ (s : State) (d : Reg) (n : Nat),
    (∃ t, exec (.sla d n) s = .next t ∧
      WroteRegister d ((fun v : Word => v.extractLsb' 0 31 ++ 0#1)^[n] (s.reg d)) s t) ∧
    (∃ t, exec (.rol d n) s = .next t ∧
      WroteRegister d ((fun v : Word => v.extractLsb' 0 31 ++ v.extractLsb' 31 1)^[n] (s.reg d)) s t) ∧
    (∃ t, exec (.ror d n) s = .next t ∧
      WroteRegister d ((fun v : Word => v.extractLsb' 0 1 ++ v.extractLsb' 1 31)^[n] (s.reg d)) s t)

/-- The closed forms of the six shifts for every count the encoding admits (spec/43_shift_x5.md R140, derived there;
decision D9 for SLA). -/
def Obligations.ShiftsHaveClosedForms : Prop :=
  ∀ (s : State) (d : Reg) (n : Nat), n < 32 →
    (∃ t, exec (.sll d n) s = .next t ∧ WroteRegister d (BitVec.ofNat 32 ((s.reg d).toNat * 2 ^ n)) s t) ∧
    (∃ t, exec (.srl d n) s = .next t ∧ WroteRegister d (BitVec.ofNat 32 ((s.reg d).toNat / 2 ^ n)) s t) ∧
    (∃ t, exec (.sla d n) s = .next t ∧ WroteRegister d (BitVec.ofNat 32 ((s.reg d).toNat * 2 ^ n)) s t) ∧
    (∃ t, exec (.sra d n) s = .next t ∧ WroteRegister d (BitVec.ofInt 32 ((s.reg d).toInt / 2 ^ n)) s t) ∧
    (∃ t, exec (.rol d n) s = .next t ∧
      WroteRegister d (if n = 0 then s.reg d else (s.reg d <<< n) ||| (s.reg d >>> (32 - n))) s t) ∧
    (∃ t, exec (.ror d n) s = .next t ∧
      WroteRegister d (if n = 0 then s.reg d else (s.reg d >>> n) ||| (s.reg d <<< (32 - n))) s t)

/-- ROL by k then ROR by k of a register other than the PC restores it, and changes nothing else but the PC
(the source's property, quoted in spec/43_shift_x5.md R145). -/
def Obligations.RotateLeftThenRightIsIdentity : Prop :=
  ∀ (s : State) (d : Reg) (k : Nat), k < 32 → d ≠ pcReg →
    ∃ t u, exec (.rol d k) s = .next t ∧ exec (.ror d k) t = .next u ∧
      SameRegsBut [pcReg] s u ∧ SameMemory s u ∧ SameHostSide s u ∧ u.pc = s.pc + 2#32

/-! ## X4 -/

/-- MOV, OR, AND and XOR: their words and their results (spec/44_regreg_x4.md R161, R164, R165, R166; decision D2
for the places of the fields). -/
def Obligations.MoveAndLogicResults : Prop :=
  ∀ (s : State) (d r : Reg),
    decode (BitVec.ofNat 32 (1 * 2 ^ 16 + d.val * 2 ^ 12 + r.val * 2 ^ 8)) = .instr (.mov d r) ∧
    (∃ t, exec (.mov d r) s = .next t ∧ WroteRegister d (s.reg r) s t) ∧
    decode (BitVec.ofNat 32 (4 * 2 ^ 16 + d.val * 2 ^ 12 + r.val * 2 ^ 8)) = .instr (.or d r) ∧
    (∃ t, exec (.or d r) s = .next t ∧ WroteRegister d (s.reg d ||| s.reg r) s t) ∧
    decode (BitVec.ofNat 32 (5 * 2 ^ 16 + d.val * 2 ^ 12 + r.val * 2 ^ 8)) = .instr (.and d r) ∧
    (∃ t, exec (.and d r) s = .next t ∧ WroteRegister d (s.reg d &&& s.reg r) s t) ∧
    decode (BitVec.ofNat 32 (6 * 2 ^ 16 + d.val * 2 ^ 12 + r.val * 2 ^ 8)) = .instr (.xor d r) ∧
    (∃ t, exec (.xor d r) s = .next t ∧ WroteRegister d (s.reg d ^^^ s.reg r) s t)

/-- ADD and SUB, wrapping modulo 2^32 (spec/44_regreg_x4.md R162, R163; decision D6, the order of SUB derived there). -/
def Obligations.AddSubResults : Prop :=
  ∀ (s : State) (d r : Reg),
    (∃ t, exec (.add d r) s = .next t ∧
      WroteRegister d (BitVec.ofInt 32 ((s.reg d).toInt + (s.reg r).toInt)) s t) ∧
    (∃ t, exec (.sub d r) s = .next t ∧
      WroteRegister d (BitVec.ofInt 32 ((s.reg d).toInt - (s.reg r).toInt)) s t)

/-- SKEQ: its word; with x[s] = x[d] the PC advances by 2 instead of 1 (spec/44_regreg_x4.md R169; decision D2
for the places of the fields). -/
def Obligations.SkipEqualAdvancesByTwo : Prop :=
  ∀ (s : State) (d r : Reg),
    decode (BitVec.ofNat 32 (9 * 2 ^ 16 + d.val * 2 ^ 12 + r.val * 2 ^ 8)) = .instr (.skeq d r) ∧
    ∃ t, exec (.skeq d r) s = .next t ∧ Advanced (if s.reg r = s.reg d then 2 else 1) s t

/-- SKGT, SKGE, SKLE, SKLT: the PC advances by 2 when signed(x[s]) stands in the relation to signed(x[d]), else by 1
(spec/44_regreg_x4.md R167, R168, R170, R171; decision D12). -/
def Obligations.OrderedSkipsCompareSigned : Prop :=
  ∀ (s : State) (d r : Reg),
    (∃ t, exec (.skgt d r) s = .next t ∧ Advanced (if (s.reg d).toInt < (s.reg r).toInt then 2 else 1) s t) ∧
    (∃ t, exec (.skge d r) s = .next t ∧ Advanced (if (s.reg d).toInt ≤ (s.reg r).toInt then 2 else 1) s t) ∧
    (∃ t, exec (.skle d r) s = .next t ∧ Advanced (if (s.reg r).toInt ≤ (s.reg d).toInt then 2 else 1) s t) ∧
    (∃ t, exec (.sklt d r) s = .next t ∧ Advanced (if (s.reg r).toInt < (s.reg d).toInt then 2 else 1) s t)

/-- The word a taken skip passes over is not fetched and may be any word: changing it changes neither the registers, the
streams and the other cells after the skip nor the next word fetched (spec/70_reset_and_hazards.md R306, derived there). -/
def Obligations.SkippedWordHasNoEffect : Prop :=
  ∀ (s t : State) (w : Word) (i : Instr) (v : Word),
    s.fetch = some w → decode w = .instr i → isSkip i = true → step s = .next t → t.pc = s.pc + 2#32 →
      ∃ t', step (s.memWrite (s.pc.toNat + 1) v) = .next t' ∧ SameRegsBut [] t t' ∧ SameHostSide t t' ∧
        SameMemoryBut (s.pc.toNat + 1) t t' ∧ t'.status = t.status ∧ t'.fetch = t.fetch

/-- Every reserved instruction, SKOV, SKNOV and X3.1 to X3.15, returns Not-Implemented on every path and so changes
nothing (spec/44_regreg_x4.md R172; spec/45_single_x3.md R190; decisions D10, D11). -/
def Obligations.ReservedInstructionsReturnNotImplemented : Prop :=
  ∀ (s : State) (a : BitVec 16) (b : BitVec 12),
    exec (.skov a) s = .fault .notImplemented ∧ exec (.sknov a) s = .fault .notImplemented ∧
    exec (.x3_1 b) s = .fault .notImplemented ∧ exec (.x3_2 b) s = .fault .notImplemented ∧
    exec (.x3_3 b) s = .fault .notImplemented ∧ exec (.x3_4 b) s = .fault .notImplemented ∧
    exec (.x3_5 b) s = .fault .notImplemented ∧ exec (.x3_6 b) s = .fault .notImplemented ∧
    exec (.x3_7 b) s = .fault .notImplemented ∧ exec (.x3_8 b) s = .fault .notImplemented ∧
    exec (.x3_9 b) s = .fault .notImplemented ∧ exec (.x3_10 b) s = .fault .notImplemented ∧
    exec (.x3_11 b) s = .fault .notImplemented ∧ exec (.x3_12 b) s = .fault .notImplemented ∧
    exec (.x3_13 b) s = .fault .notImplemented ∧ exec (.x3_14 b) s = .fault .notImplemented ∧
    exec (.x3_15 b) s = .fault .notImplemented

/-! ## X2 -/

/-- WCH emits bits 7:0 of register r as one event, the last, and advances; WRL emits the field r and the sixteen
registers as they stood before the step (spec/46_io_x2.md R201, R203; decisions D19, D20). -/
def Obligations.WriteInstructionsEmitOneEvent : Prop :=
  ∀ (s : State) (r : Reg),
    (∃ t, exec (.wch r) s = .next t ∧ t.out = s.out ++ [.char (BitVec.ofNat 8 (s.reg r).toNat)] ∧
      t.pc = s.pc + 1#32 ∧ SameRegsBut [pcReg] s t ∧ SameMemory s t ∧ t.inp = s.inp ∧ t.size = s.size ∧
      t.status = some .ok) ∧
    (∃ t regs, exec (.wrl r) s = .next t ∧ t.out = s.out ++ [.regLine r regs] ∧ (∀ k : Reg, regs[k] = s.reg k) ∧
      t.pc = s.pc + 1#32 ∧ SameRegsBut [pcReg] s t ∧ SameMemory s t ∧ t.inp = s.inp ∧ t.size = s.size ∧
      t.status = some .ok)

/-- RCH takes the oldest character into the low byte of register r, keeps the upper 24 bits, and advances; with r = 15 the
written value is advanced (spec/46_io_x2.md R202; decision D18). -/
def Obligations.ReadCharTakesOldestCharacter : Prop :=
  ∀ (s : State) (r : Reg) (c : Byte) (rest : List Byte), s.inp = c :: rest →
    ∃ t, exec (.rch r) s = .next t ∧ t.inp = rest ∧ t.out = s.out ∧ t.size = s.size ∧ SameMemory s t ∧
      SameRegsBut [r, pcReg] s t ∧ t.status = some .ok ∧
      let v := BitVec.ofNat 32 ((s.reg r).toNat / 2 ^ 8 * 2 ^ 8 + c.toNat)
      if r = pcReg then t.pc = v + 1#32 else t.reg r = v ∧ t.pc = s.pc + 1#32

/-- RCH with an empty input stream waits: nothing changes, no status is returned, and the step repeats until the host
supplies a character (spec/46_io_x2.md R202; decision D18; that a wait is a next state that repeats is the model's
choice, notes/assumptions/5.md). -/
def Obligations.ReadCharWaitsForInput : Prop :=
  ∀ (s : State) (w : Word) (r : Reg), s.fetch = some w → decode w = .instr (.rch r) → s.inp = [] →
    ∃ t, step s = .next t ∧ t.status = none ∧ SameMachine s t ∧ step t = .next t ∧ hostStep s = none ∧
      ∀ c, ∃ u, step (supplyChar c t) = .next u ∧ u.status = some .ok ∧ u.inp = []

/-! ## X1 -/

/-- NOP: its word; it advances the PC by 1 and changes nothing else (spec/47_misc_x1.md R220). -/
def Obligations.NopOnlyAdvances : Prop :=
  decode 0x00000010#32 = .instr .nop ∧ ∀ s : State, ∃ t, exec .nop s = .next t ∧ Advanced 1 s t

/-- RET: the PC is Mem[SP] + 1, SP rises by 1, nothing else changes; SP outside memory is Out-of-Range
(spec/47_misc_x1.md R221; decisions D5, D15). -/
def Obligations.RetPopsAndAdvances : Prop :=
  ∀ s : State,
    if s.InRange s.sp.toInt then
      ∃ t, exec .ret s = .next t ∧ t.pc = s.memRead s.sp.toInt.toNat + 1#32 ∧ t.sp = s.sp + 1#32 ∧
        SameRegsBut [spReg, pcReg] s t ∧ SameMemory s t ∧ SameHostSide s t ∧ t.status = some .ok
    else exec .ret s = .fault .outOfRange

/-! ## The host's transactions -/

/-- get_register gives register i for 0 ≤ i < 16 and fails with Out-of-Range for every other index
(spec/49_host_interface.md R263). -/
def Obligations.GetRegisterReadsOrFails : Prop :=
  ∀ (s : State) (i : Int),
    (∀ r : Reg, i = r.val → getRegister i s = .word (s.reg r)) ∧
    (i < 0 ∨ 16 ≤ i → getRegister i s = .failed .outOfRange)

/-- set_register: for a valid index it returns OK, get_register then gives the value and every other register and the rest
of the machine are as before; otherwise Out-of-Range and nothing changes (spec/49_host_interface.md R264;
decision D33). -/
def Obligations.SetRegisterWritesOrFails : Prop :=
  ∀ (s : State) (i : Int) (v : Word),
    (∀ r : Reg, i = r.val → (setRegister i v s).1 = .ok ∧ getRegister i (setRegister i v s).2 = .word v ∧
      SameRegsBut [r] s (setRegister i v s).2 ∧ SameMemory s (setRegister i v s).2 ∧
      SameHostSide s (setRegister i v s).2) ∧
    (i < 0 ∨ 16 ≤ i → setRegister i v s = (.outOfRange, s))

/-- read_memory and write_memory: inside [0, SIZE) a read gives the cell, and a write sets that cell and no other and
returns OK, and a later fetch from that address sees it; outside, both return Out-of-Range and change nothing
(spec/49_host_interface.md R265, R266). -/
def Obligations.HostMemoryReadsAndWrites : Prop :=
  ∀ (s : State) (a : Int) (v : Word),
    if 0 ≤ a ∧ a < s.size then
      readMemory a s = .word (s.memRead a.toNat) ∧ (writeMemory a v s).1 = .ok ∧
      readMemory a (writeMemory a v s).2 = .word v ∧
      (∀ b, b ≠ a → readMemory b (writeMemory a v s).2 = readMemory b s) ∧
      (writeMemory a v s).2.fetch = (if s.pc.toInt = a then some v else s.fetch) ∧
      SameRegsBut [] s (writeMemory a v s).2 ∧ SameHostSide s (writeMemory a v s).2
    else readMemory a s = .failed .outOfRange ∧ writeMemory a v s = (.outOfRange, s)

/-- run returns exactly the first status that is not OK, with the state of that step, whatever fuel beyond the OK steps
its executor has (spec/48_execution_driver.md R250, R251; decision D17). -/
def Obligations.RunReturnsFirstNonOkStatus : Prop :=
  ∀ (n : Nat) (s t : State) (st : Status),
    run n s = .returned st t ↔ ∃ k u, k < n ∧ OkSteps k s u ∧ hostStep u = some (st, t) ∧ st ≠ .ok
end

