-- ==== Sys2Proof/Laws/Decode.lean ====
section
/-! SUPPORT. The decoder: which family function decodes a word, and what each family function answers, said once. -/

namespace Sys2Proof

theorem word_eq_zero_iff (w : Word) : w = 0#32 ↔ w.toNat = 0 :=
  ⟨fun h => by rw [h]; rfl, fun h => BitVec.eq_of_toNat_eq (by simpa using h)⟩

theorem ne_zero_of_field {w : Word} {hi lo : Nat} (h : field w hi lo ≠ 0) : w ≠ 0#32 := by
  rintro rfl; simp [field] at h

/-! ## The family of a word (spec/30_encoding.md R61) -/

theorem decode_of_x7 {w : Word} (h : field w 31 28 ≠ 0) : decode w = decodeX7 w := by
  unfold decode; rw [if_neg (ne_zero_of_field h), if_pos h]

theorem decode_of_x6 {w : Word} (small : w.toNat < 2 ^ 28) (h : field w 27 24 ≠ 0) : decode w = decodeX6 w := by
  unfold decode; rw [if_neg (ne_zero_of_field h), if_neg (by simp only [field]; omega), if_pos h]

theorem decode_of_x5 {w : Word} (small : w.toNat < 2 ^ 24) (h : field w 23 20 ≠ 0) : decode w = decodeX5 w := by
  unfold decode; rw [if_neg (ne_zero_of_field h), if_neg (by simp only [field]; omega), if_neg (by simp only [field]; omega), if_pos h]

theorem decode_of_x4 {w : Word} (small : w.toNat < 2 ^ 20) (h : field w 19 16 ≠ 0) : decode w = decodeX4 w := by
  unfold decode; rw [if_neg (ne_zero_of_field h), if_neg (by simp only [field]; omega), if_neg (by simp only [field]; omega), if_neg (by simp only [field]; omega), if_pos h]

theorem decode_of_x3 {w : Word} (small : w.toNat < 2 ^ 16) (h : field w 15 12 ≠ 0) : decode w = decodeX3 w := by
  unfold decode; rw [if_neg (ne_zero_of_field h), if_neg (by simp only [field]; omega), if_neg (by simp only [field]; omega), if_neg (by simp only [field]; omega), if_neg (by simp only [field]; omega), if_pos h]

theorem decode_of_x2 {w : Word} (small : w.toNat < 2 ^ 12) (h : field w 11 8 ≠ 0) : decode w = decodeX2 w := by
  unfold decode; rw [if_neg (ne_zero_of_field h), if_neg (by simp only [field]; omega), if_neg (by simp only [field]; omega), if_neg (by simp only [field]; omega), if_neg (by simp only [field]; omega), if_neg (by simp only [field]; omega), if_pos h]

theorem decode_of_x1 {w : Word} (small : w.toNat < 2 ^ 8) (h : field w 7 4 ≠ 0) : decode w = decodeX1 w := by
  unfold decode; rw [if_neg (ne_zero_of_field h), if_neg (by simp only [field]; omega), if_neg (by simp only [field]; omega), if_neg (by simp only [field]; omega), if_neg (by simp only [field]; omega), if_neg (by simp only [field]; omega), if_neg (by simp only [field]; omega), if_pos h]

/-! ## What a family function answers -/

/-- An instruction is the reading of a word: it is well-formed, its encoding is the word, the word holds its row. -/
def ReadFrom (w : Word) (i : Instr) : Prop := i.WellFormed ∧ i.encodeNat = w.toNat ∧ i.row.matchesWord w = true

theorem decodeX7_reads (w : Word) (i : Instr) (h : decodeX7 w = .instr i) (small : field w 31 28 ≠ 0) : ReadFrom w i := by
  have := w.isLt
  unfold decodeX7 ifZero at h
  repeat' split at h
  all_goals try (cases h; done)
  all_goals
    cases h
    refine ⟨decide_eq_true (by simp only [baseFits, field]; omega), ?_, ?_⟩
    · simp only [Instr.encodeNat, encM, field, regField] at *
      omega
    · simp only [field, Instr.row, Row.matchesWord, List.all_cons, List.all_nil, beq_iff_eq, Bool.and_eq_true, Bool.and_true] at *
      omega

theorem decodeX6_reads (w : Word) (i : Instr) (h : decodeX6 w = .instr i) (small : w.toNat < 2 ^ 28)  : ReadFrom w i := by
  have := w.isLt
  unfold decodeX6 at h
  repeat' split at h
  all_goals try (cases h; done)
  all_goals
    cases h
    refine ⟨rfl, ?_, ?_⟩
    · simp only [Instr.encodeNat, encI, BitVec.toNat_setWidth, field, regField] at *
      omega
    · simp only [field, Instr.row, Row.matchesWord, List.all_cons, List.all_nil, beq_iff_eq, Bool.and_true] at *
      omega

theorem decodeX5_reads (w : Word) (i : Instr) (h : decodeX5 w = .instr i) (small : w.toNat < 2 ^ 24)  : ReadFrom w i := by
  have := w.isLt
  unfold decodeX5 ifZero at h
  repeat' split at h
  all_goals try (cases h; done)
  all_goals
    cases h
    refine ⟨decide_eq_true (by simp only [countFits, field]; omega), ?_, ?_⟩
    · simp only [Instr.encodeNat, encS, field, regField] at *
      omega
    · simp only [field, Instr.row, Row.matchesWord, List.all_cons, List.all_nil, beq_iff_eq, Bool.and_eq_true, Bool.and_true] at *
      omega

theorem decodeX4_reads (w : Word) (i : Instr) (h : decodeX4 w = .instr i) (small : w.toNat < 2 ^ 20)  : ReadFrom w i := by
  have := w.isLt
  unfold decodeX4 ifZero at h
  repeat' split at h
  all_goals try (cases h; done)
  all_goals
    cases h
    refine ⟨rfl, ?_, ?_⟩
    · simp only [Instr.encodeNat, encR, encX4Reserved, BitVec.toNat_setWidth, field, regField] at *
      omega
    · simp only [field, Instr.row, Row.matchesWord, List.all_cons, List.all_nil, beq_iff_eq, Bool.and_eq_true, Bool.and_true] at *
      omega

theorem decodeX3_reads (w : Word) (i : Instr) (h : decodeX3 w = .instr i) (small : w.toNat < 2 ^ 16)  : ReadFrom w i := by
  have := w.isLt
  unfold decodeX3 at h
  repeat' split at h
  all_goals try (cases h; done)
  all_goals
    cases h
    refine ⟨rfl, ?_, ?_⟩
    · simp only [Instr.encodeNat, encX3Reserved, BitVec.toNat_setWidth, field] at *
      omega
    · simp only [field, Instr.row, Row.matchesWord, List.all_cons, List.all_nil, beq_iff_eq, Bool.and_true] at *
      omega

theorem decodeX2_reads (w : Word) (i : Instr) (h : decodeX2 w = .instr i) (small : w.toNat < 2 ^ 12)  : ReadFrom w i := by
  have := w.isLt
  unfold decodeX2 ifZero at h
  repeat' split at h
  all_goals try (cases h; done)
  all_goals
    cases h
    refine ⟨rfl, ?_, ?_⟩
    · simp only [Instr.encodeNat, encIO, field, regField] at *
      omega
    · simp only [field, Instr.row, Row.matchesWord, List.all_cons, List.all_nil, beq_iff_eq, Bool.and_eq_true, Bool.and_true] at *
      omega

theorem decodeX1_reads (w : Word) (i : Instr) (h : decodeX1 w = .instr i) (small : w.toNat < 2 ^ 8)  : ReadFrom w i := by
  have := w.isLt
  unfold decodeX1 ifZero at h
  repeat' split at h
  all_goals try (cases h; done)
  all_goals
    cases h
    refine ⟨rfl, ?_, ?_⟩
    · simp only [Instr.encodeNat, encC, field] at *
      omega
    · simp only [field, Instr.row, Row.matchesWord, List.all_cons, List.all_nil, beq_iff_eq, Bool.and_true] at *
      omega

end Sys2Proof
end

