-- ==== Sys2Proof/Laws/State.lean ====
section
/-! SUPPORT. One lemma per field per update of State, true by rfl and tagged simp, and how a register reads after an
update. -/

namespace Sys2Proof.Machine

@[simp] theorem State.setReg_regs (s : State) (r : Reg) (v : Word) : (s.setReg r v).regs = s.regs.set r.val v r.isLt := rfl
@[simp] theorem State.setReg_mem (s : State) (r : Reg) (v : Word) : (s.setReg r v).mem = s.mem := rfl
@[simp] theorem State.setReg_size (s : State) (r : Reg) (v : Word) : (s.setReg r v).size = s.size := rfl
@[simp] theorem State.setReg_out (s : State) (r : Reg) (v : Word) : (s.setReg r v).out = s.out := rfl
@[simp] theorem State.setReg_inp (s : State) (r : Reg) (v : Word) : (s.setReg r v).inp = s.inp := rfl
@[simp] theorem State.setReg_status (s : State) (r : Reg) (v : Word) : (s.setReg r v).status = s.status := rfl
@[simp] theorem State.setReg_memRead (s : State) (r : Reg) (v : Word) (k : Nat) : (s.setReg r v).memRead k = s.memRead k := rfl

@[simp] theorem State.memWrite_regs (s : State) (a : Nat) (v : Word) : (s.memWrite a v).regs = s.regs := rfl
@[simp] theorem State.memWrite_mem (s : State) (a : Nat) (v : Word) : (s.memWrite a v).mem = s.mem.write a v := rfl
@[simp] theorem State.memWrite_size (s : State) (a : Nat) (v : Word) : (s.memWrite a v).size = s.size := rfl
@[simp] theorem State.memWrite_out (s : State) (a : Nat) (v : Word) : (s.memWrite a v).out = s.out := rfl
@[simp] theorem State.memWrite_inp (s : State) (a : Nat) (v : Word) : (s.memWrite a v).inp = s.inp := rfl
@[simp] theorem State.memWrite_status (s : State) (a : Nat) (v : Word) : (s.memWrite a v).status = s.status := rfl
@[simp] theorem State.memWrite_reg (s : State) (a : Nat) (v : Word) (k : Reg) : (s.memWrite a v).reg k = s.reg k := rfl
@[simp] theorem State.memWrite_pc (s : State) (a : Nat) (v : Word) : (s.memWrite a v).pc = s.pc := rfl
@[simp] theorem State.memWrite_sp (s : State) (a : Nat) (v : Word) : (s.memWrite a v).sp = s.sp := rfl

@[simp] theorem State.emit_regs (s : State) (e : OutEvent) : (s.emit e).regs = s.regs := rfl
@[simp] theorem State.emit_mem (s : State) (e : OutEvent) : (s.emit e).mem = s.mem := rfl
@[simp] theorem State.emit_size (s : State) (e : OutEvent) : (s.emit e).size = s.size := rfl
@[simp] theorem State.emit_out (s : State) (e : OutEvent) : (s.emit e).out = s.out ++ [e] := rfl
@[simp] theorem State.emit_inp (s : State) (e : OutEvent) : (s.emit e).inp = s.inp := rfl
@[simp] theorem State.emit_status (s : State) (e : OutEvent) : (s.emit e).status = s.status := rfl
@[simp] theorem State.emit_reg (s : State) (e : OutEvent) (k : Reg) : (s.emit e).reg k = s.reg k := rfl
@[simp] theorem State.emit_pc (s : State) (e : OutEvent) : (s.emit e).pc = s.pc := rfl
@[simp] theorem State.emit_sp (s : State) (e : OutEvent) : (s.emit e).sp = s.sp := rfl
@[simp] theorem State.emit_memRead (s : State) (e : OutEvent) (k : Nat) : (s.emit e).memRead k = s.memRead k := rfl

@[simp] theorem State.returning_regs (s : State) (st : Option Status) : (s.returning st).regs = s.regs := rfl
@[simp] theorem State.returning_mem (s : State) (st : Option Status) : (s.returning st).mem = s.mem := rfl
@[simp] theorem State.returning_size (s : State) (st : Option Status) : (s.returning st).size = s.size := rfl
@[simp] theorem State.returning_out (s : State) (st : Option Status) : (s.returning st).out = s.out := rfl
@[simp] theorem State.returning_inp (s : State) (st : Option Status) : (s.returning st).inp = s.inp := rfl
@[simp] theorem State.returning_status (s : State) (st : Option Status) : (s.returning st).status = st := rfl
@[simp] theorem State.returning_reg (s : State) (st : Option Status) (k : Reg) : (s.returning st).reg k = s.reg k := rfl
@[simp] theorem State.returning_pc (s : State) (st : Option Status) : (s.returning st).pc = s.pc := rfl
@[simp] theorem State.returning_sp (s : State) (st : Option Status) : (s.returning st).sp = s.sp := rfl
@[simp] theorem State.returning_memRead (s : State) (st : Option Status) (k : Nat) : (s.returning st).memRead k = s.memRead k := rfl

/-- A register reads the word written to it, any other register what it held. -/
theorem State.setReg_reg (s : State) (r : Reg) (v : Word) (k : Reg) :
    (s.setReg r v).reg k = if k = r then v else s.reg k := by
  simp only [State.reg, State.setReg, Fin.getElem_fin, Vector.getElem_set]
  by_cases h : k = r
  · simp [h]
  · simpa [h] using fun e : r.val = k.val => absurd (Fin.ext e.symm) h

@[simp] theorem State.setReg_reg_self (s : State) (r : Reg) (v : Word) : (s.setReg r v).reg r = v := by
  simp [State.setReg_reg]

@[simp] theorem State.setReg_reg_ne (s : State) {r k : Reg} (v : Word) (h : k ≠ r) :
    (s.setReg r v).reg k = s.reg k := by
  simp [State.setReg_reg, h]

@[simp] theorem State.setReg_pc (s : State) (r : Reg) (v : Word) :
    (s.setReg r v).pc = if r = pcReg then v else s.pc := by
  simp [State.pc, State.setReg_reg, eq_comm]

@[simp] theorem State.setReg_sp (s : State) (r : Reg) (v : Word) :
    (s.setReg r v).sp = if r = spReg then v else s.sp := by
  simp [State.sp, State.setReg_reg, eq_comm]

@[simp] theorem spReg_ne_pcReg : spReg ≠ pcReg := by decide

@[simp] theorem pcReg_ne_spReg : pcReg ≠ spReg := by decide

theorem State.reg_pcReg (s : State) : s.reg pcReg = s.pc := rfl

theorem State.reg_spReg (s : State) : s.reg spReg = s.sp := rfl

/-! The PC action writes register 15 or nothing. -/

@[simp] theorem State.applyPc_mem (s : State) (a : PcAction) : (s.applyPc a).mem = s.mem := by
  cases a <;> rfl

@[simp] theorem State.applyPc_size (s : State) (a : PcAction) : (s.applyPc a).size = s.size := by
  cases a <;> rfl

@[simp] theorem State.applyPc_out (s : State) (a : PcAction) : (s.applyPc a).out = s.out := by
  cases a <;> rfl

@[simp] theorem State.applyPc_inp (s : State) (a : PcAction) : (s.applyPc a).inp = s.inp := by
  cases a <;> rfl

@[simp] theorem State.applyPc_status (s : State) (a : PcAction) : (s.applyPc a).status = s.status := by
  cases a <;> rfl

@[simp] theorem State.applyPc_memRead (s : State) (a : PcAction) (k : Nat) : (s.applyPc a).memRead k = s.memRead k := by
  cases a <;> rfl

@[simp] theorem State.applyPc_advance_pc (s : State) (n : Nat) :
    (s.applyPc (.advance n)).pc = s.pc + BitVec.ofNat 32 n := by
  simp [State.applyPc]

@[simp] theorem State.applyPc_transfer (s : State) : s.applyPc .transfer = s := rfl

@[simp] theorem State.applyPc_reg_ne (s : State) (a : PcAction) {k : Reg} (h : k ≠ pcReg) :
    (s.applyPc a).reg k = s.reg k := by
  cases a <;> simp [State.applyPc, h]

@[simp] theorem State.applyPc_sp (s : State) (a : PcAction) : (s.applyPc a).sp = s.sp :=
  s.applyPc_reg_ne a (by decide)

end Sys2Proof.Machine
end

