-- ==== Sys2Proof/Laws/Memory.lean ====
section
/-! SUPPORT. Memory: a read after a write, and that every memory operation keeps the canonical form. -/

namespace Sys2Proof.Machine

theorem Memory.read_erase (m : Memory) (a b : Nat) :
    (m.erase a).read b = if b = a then Config.unwrittenWord else m.read b := by
  induction m with
  | nil => simp [Memory.erase, Memory.read]
  | cons c rest ih =>
    obtain ⟨k, v⟩ := c
    by_cases hk : k = a <;> by_cases hb : k = b <;> simp_all [Memory.erase, Memory.read]

theorem Memory.read_insert (m : Memory) (a b : Nat) (v : Word) (fresh : ∀ c ∈ m, c.1 ≠ a) :
    (m.insert a v).read b = if b = a then v else m.read b := by
  induction m with
  | nil => by_cases h : a = b <;> simp_all [Memory.insert, Memory.read, eq_comm]
  | cons c rest ih =>
    obtain ⟨k, u⟩ := c
    simp only [List.mem_cons, forall_eq_or_imp] at fresh
    by_cases hlt : a < k
    · by_cases h : a = b <;> simp_all [Memory.insert, Memory.read, eq_comm]
    · by_cases h : k = b
      · subst h; simp [Memory.insert, Memory.read, hlt, fresh.1]
      · simp [Memory.insert, Memory.read, hlt, h, ih fresh.2]

theorem Memory.mem_erase {m : Memory} {a : Nat} {c : Cell} : c ∈ m.erase a ↔ c ∈ m ∧ c.1 ≠ a := by
  induction m with
  | nil => simp [Memory.erase]
  | cons d rest ih =>
    by_cases h : d.1 = a
    · simp only [Memory.erase, h, if_true, ih, List.mem_cons]
      constructor
      · exact fun ⟨x, y⟩ => ⟨.inr x, y⟩
      · rintro ⟨rfl | x, y⟩
        · exact absurd h y
        · exact ⟨x, y⟩
    · simp only [Memory.erase, h, if_false, List.mem_cons, ih]
      constructor
      · rintro (rfl | ⟨x, y⟩)
        · exact ⟨.inl rfl, h⟩
        · exact ⟨.inr x, y⟩
      · rintro ⟨rfl | x, y⟩
        · exact .inl rfl
        · exact .inr ⟨x, y⟩

theorem Memory.mem_insert {m : Memory} {a : Nat} {v : Word} {c : Cell} :
    c ∈ m.insert a v ↔ c = (a, v) ∨ c ∈ m := by
  induction m with
  | nil => simp [Memory.insert]
  | cons d rest ih =>
    by_cases h : a < d.1
    · simp [Memory.insert, h]
    · simp only [Memory.insert, h, if_false, List.mem_cons, ih]
      exact or_left_comm

/-- A read after a write: the written word at its address, every other word as before. It holds for every memory. -/
theorem Memory.read_write (m : Memory) (a b : Nat) (v : Word) :
    (m.write a v).read b = if b = a then v else m.read b := by
  unfold Memory.write
  split
  · rename_i h; rw [Memory.read_erase, h]
  · rw [Memory.read_insert _ _ _ _ (fun c hc => (Memory.mem_erase.1 hc).2), Memory.read_erase]
    by_cases h : b = a <;> simp [h]

@[simp] theorem Memory.read_write_self (m : Memory) (a : Nat) (v : Word) : (m.write a v).read a = v := by
  simp [Memory.read_write]

@[simp] theorem Memory.read_write_ne (m : Memory) {a b : Nat} (v : Word) (h : b ≠ a) :
    (m.write a v).read b = m.read b := by
  simp [Memory.read_write, h]

@[simp] theorem State.memWrite_memRead (s : State) (a b : Nat) (v : Word) :
    (s.memWrite a v).memRead b = if b = a then v else s.memRead b :=
  Memory.read_write s.mem a b v

theorem Memory.Canonical.erase {m : Memory} (h : m.Canonical) (a : Nat) : (m.erase a).Canonical := by
  refine ⟨?_, fun c hc => h.2 c (Memory.mem_erase.1 hc).1⟩
  replace h := h.1
  induction m with
  | nil => exact h
  | cons d rest ih =>
    rw [List.pairwise_cons] at h
    by_cases hd : d.1 = a
    · simpa [Memory.erase, hd] using ih h.2
    · simp only [Memory.erase, hd, if_false, List.pairwise_cons]
      exact ⟨fun c hc => h.1 c (Memory.mem_erase.1 hc).1, ih h.2⟩

theorem Memory.Canonical.insert {m : Memory} (h : m.Canonical) {a : Nat} {v : Word}
    (fresh : ∀ c ∈ m, c.1 ≠ a) (hv : v ≠ Config.unwrittenWord) : (m.insert a v).Canonical := by
  refine ⟨?_, fun c hc => (Memory.mem_insert.1 hc).elim (fun e => by rw [e]; exact hv) (h.2 c)⟩
  replace h := h.1
  induction m with
  | nil => simp [Memory.insert]
  | cons d rest ih =>
    rw [List.pairwise_cons] at h
    simp only [List.mem_cons, forall_eq_or_imp] at fresh
    by_cases hlt : a < d.1
    · simp only [Memory.insert, hlt, if_true, List.pairwise_cons, List.mem_cons, forall_eq_or_imp]
      exact ⟨⟨trivial, fun c hc => lt_trans hlt (h.1 c hc)⟩, h⟩
    · simp only [Memory.insert, hlt, if_false, List.pairwise_cons]
      refine ⟨fun c hc => ?_, ih fresh.2 h.2⟩
      rcases Memory.mem_insert.1 hc with rfl | hc
      · exact lt_of_le_of_ne (not_lt.1 hlt) fresh.1
      · exact h.1 c hc

/-- A write keeps the canonical form. -/
theorem Memory.Canonical.write {m : Memory} (h : m.Canonical) (a : Nat) (v : Word) : (m.write a v).Canonical := by
  unfold Memory.write
  split
  · exact h.erase a
  · rename_i hv; exact (h.erase a).insert (fun c hc => (Memory.mem_erase.1 hc).2) hv

theorem Memory.wf_iff (m : Memory) : m.wf = true ↔ m.Canonical := by simp [Memory.wf]

/-- The cells listed after a write: old cells, and the written one. -/
theorem Memory.mem_write {m : Memory} {a : Nat} {v : Word} {c : Cell} (h : c ∈ m.write a v) : c ∈ m ∨ c = (a, v) := by
  unfold Memory.write at h
  split at h
  · exact .inl (Memory.mem_erase.1 h).1
  · exact (Memory.mem_insert.1 h).elim .inr fun h => .inl (Memory.mem_erase.1 h).1

/-- Construction lists no cell, so its memory is in canonical form. -/
theorem State.construct_canonical (size : Nat) : (State.construct size).mem.Canonical :=
  ⟨List.Pairwise.nil, by simp [State.construct]⟩

end Sys2Proof.Machine
end

