-- ==== Sys2Proof/Laws/PerInstr.lean ====
section
/-! SUPPORT. Per instruction: a well-formed instruction's encoding is one 32-bit word (spec/30_encoding.md R60, R83).
The bound of each format is proved once; each instruction's lemma applies it at its opcode. -/

namespace Sys2Proof.Laws.EncodingFits

/-- The encoding of a well-formed instruction fits one word, so `encode` drops no bit of it. -/
def Statement (i : Instr) : Prop := i.WellFormed → i.encodeNat < 2 ^ 32

theorem encM_lt {op : Nat} {x d : Reg} {base : Nat} (ho : op < 16) (hb : baseFits base) : encM op x d base < 2 ^ 32 := by
  unfold encM; omega

theorem encI_lt {op : Nat} {d : Reg} {imm : BitVec 20} (ho : op < 16) : encI op d imm < 2 ^ 32 := by
  unfold encI; omega

theorem encS_lt {op : Nat} {d : Reg} {n : Nat} (ho : op < 16) (hn : countFits n) : encS op d n < 2 ^ 32 := by
  unfold encS; omega

theorem encR_lt {op : Nat} {d r : Reg} (ho : op < 16) : encR op d r < 2 ^ 32 := by
  unfold encR; omega

theorem encX4Reserved_lt {op : Nat} {b : BitVec 16} (ho : op < 16) : encX4Reserved op b < 2 ^ 32 := by
  unfold encX4Reserved; omega

theorem encX3Reserved_lt {op : Nat} {b : BitVec 12} (ho : op < 16) : encX3Reserved op b < 2 ^ 32 := by
  unfold encX3Reserved; omega

theorem encIO_lt {op : Nat} {r : Reg} (ho : op < 16) : encIO op r < 2 ^ 32 := by
  unfold encIO; omega

theorem encC_lt {op : Nat} (ho : op < 16) : encC op < 2 ^ 32 := by
  unfold encC; omega

theorem halt : Statement .halt := fun _ => Nat.two_pow_pos 32

theorem load (d x : Reg) (base : Nat) : Statement (.load d x base) := fun h => encM_lt (op := 1) (Nat.lt_of_sub_pos (Nat.succ_pos 14)) (of_decide_eq_true h)

theorem store (d x : Reg) (base : Nat) : Statement (.store d x base) := fun h => encM_lt (op := 2) (Nat.lt_of_sub_pos (Nat.succ_pos 13)) (of_decide_eq_true h)

theorem addm (d x : Reg) (base : Nat) : Statement (.addm d x base) := fun h => encM_lt (op := 3) (Nat.lt_of_sub_pos (Nat.succ_pos 12)) (of_decide_eq_true h)

theorem subm (d x : Reg) (base : Nat) : Statement (.subm d x base) := fun h => encM_lt (op := 4) (Nat.lt_of_sub_pos (Nat.succ_pos 11)) (of_decide_eq_true h)

theorem jump (x : Reg) (base : Nat) : Statement (.jump x base) := fun h => encM_lt (op := 5) (Nat.lt_of_sub_pos (Nat.succ_pos 10)) (of_decide_eq_true h)

theorem call (x : Reg) (base : Nat) : Statement (.call x base) := fun h => encM_lt (op := 6) (Nat.lt_of_sub_pos (Nat.succ_pos 9)) (of_decide_eq_true h)

theorem ldu (d : Reg) (imm : BitVec 20) : Statement (.ldu d imm) := fun _ => encI_lt (op := 1) (Nat.lt_of_sub_pos (Nat.succ_pos 14))

theorem lds (d : Reg) (imm : BitVec 20) : Statement (.lds d imm) := fun _ => encI_lt (op := 2) (Nat.lt_of_sub_pos (Nat.succ_pos 13))

theorem addi (d : Reg) (imm : BitVec 20) : Statement (.addi d imm) := fun _ => encI_lt (op := 3) (Nat.lt_of_sub_pos (Nat.succ_pos 12))

theorem subi (d : Reg) (imm : BitVec 20) : Statement (.subi d imm) := fun _ => encI_lt (op := 4) (Nat.lt_of_sub_pos (Nat.succ_pos 11))

theorem ori (d : Reg) (imm : BitVec 20) : Statement (.ori d imm) := fun _ => encI_lt (op := 5) (Nat.lt_of_sub_pos (Nat.succ_pos 10))

theorem andi (d : Reg) (imm : BitVec 20) : Statement (.andi d imm) := fun _ => encI_lt (op := 6) (Nat.lt_of_sub_pos (Nat.succ_pos 9))

theorem xori (d : Reg) (imm : BitVec 20) : Statement (.xori d imm) := fun _ => encI_lt (op := 7) (Nat.lt_of_sub_pos (Nat.succ_pos 8))

theorem sll (d : Reg) (n : Nat) : Statement (.sll d n) := fun h => encS_lt (op := 1) (Nat.lt_of_sub_pos (Nat.succ_pos 14)) (of_decide_eq_true h)

theorem srl (d : Reg) (n : Nat) : Statement (.srl d n) := fun h => encS_lt (op := 2) (Nat.lt_of_sub_pos (Nat.succ_pos 13)) (of_decide_eq_true h)

theorem sla (d : Reg) (n : Nat) : Statement (.sla d n) := fun h => encS_lt (op := 3) (Nat.lt_of_sub_pos (Nat.succ_pos 12)) (of_decide_eq_true h)

theorem sra (d : Reg) (n : Nat) : Statement (.sra d n) := fun h => encS_lt (op := 4) (Nat.lt_of_sub_pos (Nat.succ_pos 11)) (of_decide_eq_true h)

theorem rol (d : Reg) (n : Nat) : Statement (.rol d n) := fun h => encS_lt (op := 5) (Nat.lt_of_sub_pos (Nat.succ_pos 10)) (of_decide_eq_true h)

theorem ror (d : Reg) (n : Nat) : Statement (.ror d n) := fun h => encS_lt (op := 6) (Nat.lt_of_sub_pos (Nat.succ_pos 9)) (of_decide_eq_true h)

theorem mov (d r : Reg) : Statement (.mov d r) := fun _ => encR_lt (op := 1) (Nat.lt_of_sub_pos (Nat.succ_pos 14))

theorem add (d r : Reg) : Statement (.add d r) := fun _ => encR_lt (op := 2) (Nat.lt_of_sub_pos (Nat.succ_pos 13))

theorem sub (d r : Reg) : Statement (.sub d r) := fun _ => encR_lt (op := 3) (Nat.lt_of_sub_pos (Nat.succ_pos 12))

theorem or (d r : Reg) : Statement (.or d r) := fun _ => encR_lt (op := 4) (Nat.lt_of_sub_pos (Nat.succ_pos 11))

theorem and (d r : Reg) : Statement (.and d r) := fun _ => encR_lt (op := 5) (Nat.lt_of_sub_pos (Nat.succ_pos 10))

theorem xor (d r : Reg) : Statement (.xor d r) := fun _ => encR_lt (op := 6) (Nat.lt_of_sub_pos (Nat.succ_pos 9))

theorem skgt (d r : Reg) : Statement (.skgt d r) := fun _ => encR_lt (op := 7) (Nat.lt_of_sub_pos (Nat.succ_pos 8))

theorem skge (d r : Reg) : Statement (.skge d r) := fun _ => encR_lt (op := 8) (Nat.lt_of_sub_pos (Nat.succ_pos 7))

theorem skeq (d r : Reg) : Statement (.skeq d r) := fun _ => encR_lt (op := 9) (Nat.lt_of_sub_pos (Nat.succ_pos 6))

theorem skle (d r : Reg) : Statement (.skle d r) := fun _ => encR_lt (op := 10) (Nat.lt_of_sub_pos (Nat.succ_pos 5))

theorem sklt (d r : Reg) : Statement (.sklt d r) := fun _ => encR_lt (op := 11) (Nat.lt_of_sub_pos (Nat.succ_pos 4))

theorem skov (ignored : BitVec 16) : Statement (.skov ignored) := fun _ => encX4Reserved_lt (op := 12) (Nat.lt_of_sub_pos (Nat.succ_pos 3))

theorem sknov (ignored : BitVec 16) : Statement (.sknov ignored) := fun _ => encX4Reserved_lt (op := 13) (Nat.lt_of_sub_pos (Nat.succ_pos 2))

theorem x3_1 (ignored : BitVec 12) : Statement (.x3_1 ignored) := fun _ => encX3Reserved_lt (op := 1) (Nat.lt_of_sub_pos (Nat.succ_pos 14))

theorem x3_2 (ignored : BitVec 12) : Statement (.x3_2 ignored) := fun _ => encX3Reserved_lt (op := 2) (Nat.lt_of_sub_pos (Nat.succ_pos 13))

theorem x3_3 (ignored : BitVec 12) : Statement (.x3_3 ignored) := fun _ => encX3Reserved_lt (op := 3) (Nat.lt_of_sub_pos (Nat.succ_pos 12))

theorem x3_4 (ignored : BitVec 12) : Statement (.x3_4 ignored) := fun _ => encX3Reserved_lt (op := 4) (Nat.lt_of_sub_pos (Nat.succ_pos 11))

theorem x3_5 (ignored : BitVec 12) : Statement (.x3_5 ignored) := fun _ => encX3Reserved_lt (op := 5) (Nat.lt_of_sub_pos (Nat.succ_pos 10))

theorem x3_6 (ignored : BitVec 12) : Statement (.x3_6 ignored) := fun _ => encX3Reserved_lt (op := 6) (Nat.lt_of_sub_pos (Nat.succ_pos 9))

theorem x3_7 (ignored : BitVec 12) : Statement (.x3_7 ignored) := fun _ => encX3Reserved_lt (op := 7) (Nat.lt_of_sub_pos (Nat.succ_pos 8))

theorem x3_8 (ignored : BitVec 12) : Statement (.x3_8 ignored) := fun _ => encX3Reserved_lt (op := 8) (Nat.lt_of_sub_pos (Nat.succ_pos 7))

theorem x3_9 (ignored : BitVec 12) : Statement (.x3_9 ignored) := fun _ => encX3Reserved_lt (op := 9) (Nat.lt_of_sub_pos (Nat.succ_pos 6))

theorem x3_10 (ignored : BitVec 12) : Statement (.x3_10 ignored) := fun _ => encX3Reserved_lt (op := 10) (Nat.lt_of_sub_pos (Nat.succ_pos 5))

theorem x3_11 (ignored : BitVec 12) : Statement (.x3_11 ignored) := fun _ => encX3Reserved_lt (op := 11) (Nat.lt_of_sub_pos (Nat.succ_pos 4))

theorem x3_12 (ignored : BitVec 12) : Statement (.x3_12 ignored) := fun _ => encX3Reserved_lt (op := 12) (Nat.lt_of_sub_pos (Nat.succ_pos 3))

theorem x3_13 (ignored : BitVec 12) : Statement (.x3_13 ignored) := fun _ => encX3Reserved_lt (op := 13) (Nat.lt_of_sub_pos (Nat.succ_pos 2))

theorem x3_14 (ignored : BitVec 12) : Statement (.x3_14 ignored) := fun _ => encX3Reserved_lt (op := 14) (Nat.lt_of_sub_pos (Nat.succ_pos 1))

theorem x3_15 (ignored : BitVec 12) : Statement (.x3_15 ignored) := fun _ => encX3Reserved_lt (op := 15) (Nat.lt_of_sub_pos (Nat.succ_pos 0))

theorem wch (r : Reg) : Statement (.wch r) := fun _ => encIO_lt (op := 1) (Nat.lt_of_sub_pos (Nat.succ_pos 14))

theorem rch (r : Reg) : Statement (.rch r) := fun _ => encIO_lt (op := 2) (Nat.lt_of_sub_pos (Nat.succ_pos 13))

theorem wrl (r : Reg) : Statement (.wrl r) := fun _ => encIO_lt (op := 3) (Nat.lt_of_sub_pos (Nat.succ_pos 12))

theorem nop : Statement (.nop) := fun _ => encC_lt (op := 1) (Nat.lt_of_sub_pos (Nat.succ_pos 14))

theorem ret : Statement (.ret) := fun _ => encC_lt (op := 2) (Nat.lt_of_sub_pos (Nat.succ_pos 13))

end Sys2Proof.Laws.EncodingFits
end

