-- ==== Sys2Proof/Laws/Shift.lean ====
section
/-! SUPPORT. The one-bit steps of the shifts as core bit-vector operations, and what repeating them gives
(spec/43_shift_x5.md R140). -/

namespace Sys2Proof.Machine

theorem stepSll_eq (v : Word) : stepSll v = v <<< 1 := by
  apply BitVec.eq_of_getLsbD_eq
  intro i hi
  simp only [stepSll, BitVec.getLsbD_append, BitVec.getLsbD_extractLsb', BitVec.getLsbD_shiftLeft]
  rcases i with _ | i
  · simp
  · simp [show i < 31 by omega, show i + 1 < 32 by omega]

theorem stepSla_eq (v : Word) : stepSla v = stepSll v := rfl

theorem stepSrl_eq (v : Word) : stepSrl v = v >>> 1 := by
  apply BitVec.eq_of_getLsbD_eq
  intro i hi
  simp only [stepSrl, BitVec.getLsbD_append, BitVec.getLsbD_extractLsb', BitVec.getLsbD_ushiftRight]
  by_cases h : i < 31
  · simp [h]
  · obtain rfl : i = 31 := by omega
    simp

theorem stepSra_eq (v : Word) : stepSra v = v.sshiftRight 1 := by
  apply BitVec.eq_of_getLsbD_eq
  intro i hi
  simp only [stepSra, BitVec.getLsbD_append, BitVec.getLsbD_extractLsb', BitVec.getLsbD_sshiftRight]
  by_cases h : i < 31
  · simp [h, hi, show 1 + i < 32 by omega]
  · obtain rfl : i = 31 := by omega
    simp [BitVec.msb_eq_getLsbD_last]

theorem stepRol_eq (v : Word) : stepRol v = v.rotateLeft 1 := by
  apply BitVec.eq_of_getLsbD_eq
  intro i hi
  simp only [stepRol, BitVec.getLsbD_append, BitVec.getLsbD_extractLsb', BitVec.getLsbD_rotateLeft]
  rcases i with _ | i
  · simp
  · simp [show i < 31 by omega, show i + 1 < 32 by omega, Nat.add_comm]

theorem stepRor_eq (v : Word) : stepRor v = v.rotateRight 1 := by
  apply BitVec.eq_of_getLsbD_eq
  intro i hi
  simp only [stepRor, BitVec.getLsbD_append, BitVec.getLsbD_extractLsb', BitVec.getLsbD_rotateRight]
  by_cases h : i < 31
  · simp [h]
  · obtain rfl : i = 31 := by omega
    simp

theorem repeatStep_eq_iterate (f : Word → Word) (n : Nat) (v : Word) : repeatStep f n v = f^[n] v := by
  induction n generalizing v with
  | zero => rfl
  | succ n ih => simp [repeatStep, ih]

theorem repeatStep_stepSll (n : Nat) (v : Word) : repeatStep stepSll n v = v <<< n := by
  induction n generalizing v with
  | zero => simp [repeatStep]
  | succ n ih => rw [repeatStep, ih, stepSll_eq, ← BitVec.shiftLeft_add, Nat.add_comm]

theorem repeatStep_stepSrl (n : Nat) (v : Word) : repeatStep stepSrl n v = v >>> n := by
  induction n generalizing v with
  | zero => simp [repeatStep]
  | succ n ih => rw [repeatStep, ih, stepSrl_eq, ← BitVec.shiftRight_add, Nat.add_comm]

theorem repeatStep_stepSra (n : Nat) (v : Word) : repeatStep stepSra n v = v.sshiftRight n := by
  induction n generalizing v with
  | zero => simp [repeatStep]
  | succ n ih => rw [repeatStep, ih, stepSra_eq, ← BitVec.sshiftRight_add, Nat.add_comm]

end Sys2Proof.Machine
end

