-- ==== Sys2Proof/Laws/Step.lean ====
section
/-! SUPPORT. What a step can do, said once: the spec lemma of each shared operation, and one inversion lemma for `exec`
from which invariants and frames are derived. -/

namespace Sys2Proof.Machine

/-! ## Shared operations -/

theorem withCell_of_inRange {s : State} {a : Int} (h : s.InRange a)
    (k : Nat → Host.Outcome State Fault Refusal) : withCell s a k = k a.toNat := if_pos h

theorem withCell_of_not_inRange {s : State} {a : Int} (h : ¬ s.InRange a)
    (k : Nat → Host.Outcome State Fault Refusal) : withCell s a k = .fault .outOfRange := if_neg h

/-- If an access goes on to a next state, its address was in range. -/
theorem withCell_next {s t : State} {a : Int} {k : Nat → Host.Outcome State Fault Refusal}
    (h : withCell s a k = .next t) : s.InRange a ∧ k a.toNat = .next t := by
  unfold withCell at h
  split at h
  · exact ⟨‹_›, h⟩
  · cases h

/-- A step that completes is OK and applies the PC action to the handler's writes. -/
theorem complete_next {a : PcAction} {s t : State} (h : complete a s = .next t) :
    t = (s.applyPc a).returning (some .ok) := by
  cases h; rfl

/-- Writing a register and advancing: the whole result. -/
theorem writeAndAdvance_wrote (d : Reg) (v : Word) (s : State) :
    ∃ t, writeAndAdvance d v s = .next t ∧ WroteRegister d v s t := by
  refine ⟨_, rfl, ?_, fun k hk => ?_, fun a => by simp, ⟨rfl, rfl, rfl⟩, rfl⟩
  · by_cases h : d = pcReg <;> simp [h]
  · simp only [List.mem_cons, List.not_mem_nil, or_false, not_or] at hk
    simp [hk.1, hk.2]

/-- Advancing only: the whole result. -/
theorem complete_advanced (n : Nat) (s : State) : ∃ t, complete (.advance n) s = .next t ∧ Advanced n s t := by
  refine ⟨_, rfl, by simp, fun k hk => ?_, fun a => by simp, ⟨rfl, rfl, rfl⟩, rfl⟩
  simp only [List.mem_singleton] at hk
  simp [hk]

theorem fetch_of_inRange {s : State} (h : s.InRange s.pc.toInt) : s.fetch = some (s.memRead s.pc.toInt.toNat) :=
  if_pos h

theorem fetch_of_not_inRange {s : State} (h : ¬ s.InRange s.pc.toInt) : s.fetch = none := if_neg h

theorem fetch_eq_some {s : State} {w : Word} (h : s.fetch = some w) :
    s.InRange s.pc.toInt ∧ s.memRead s.pc.toInt.toNat = w := by
  unfold State.fetch at h
  split at h
  · exact ⟨‹_›, Option.some.inj h⟩
  · cases h

/-- Everything the handlers write before the PC action (spec/48_execution_driver.md R244). -/
inductive HandlerWrites (s : State) : State → Prop where
  | nothing : HandlerWrites s s
  | register (d : Reg) (v : Word) : HandlerWrites s (s.setReg d v)
  | cell (a : Int) (v : Word) (h : s.InRange a) : HandlerWrites s (s.memWrite a.toNat v)
  | push (a : Int) (v w u : Word) (h : s.InRange a) :
      HandlerWrites s (((s.memWrite a.toNat v).setReg spReg w).setReg pcReg u)
  | pop (v w : Word) : HandlerWrites s ((s.setReg pcReg v).setReg spReg w)
  | emitted (e : OutEvent) : HandlerWrites s (s.emit e)
  | received (c : Byte) (rest : List Byte) (h : s.inp = c :: rest) (d : Reg) (v : Word) :
      HandlerWrites s (({ s with inp := rest } : State).setReg d v)

/-- What an instruction that answers a next state has done: it halted, it waits, or it completed after the writes of its
handler. -/
theorem exec_next_cases {i : Instr} {s t : State} (h : exec i s = .next t) :
    (i = .halt ∧ t = s.returning (some .halt)) ∨
    ((∃ r, i = .rch r) ∧ s.inp = [] ∧ t = s.returning none) ∨
    ∃ a s', HandlerWrites s s' ∧ t = (s'.applyPc a).returning (some .ok) := by
  cases i with
  | halt => cases h; exact .inl ⟨rfl, rfl⟩
  | load | addm | subm =>
    simp only [exec, execLoad, execAddm, execSubm] at h
    obtain ⟨-, h⟩ := withCell_next h
    exact .inr (.inr ⟨_, _, .register _ _, complete_next h⟩)
  | store =>
    simp only [exec, execStore] at h
    obtain ⟨r, h⟩ := withCell_next h
    exact .inr (.inr ⟨_, _, .cell _ _ r, complete_next h⟩)
  | jump =>
    simp only [exec, execJump] at h
    obtain ⟨-, h⟩ := withCell_next h
    exact .inr (.inr ⟨_, _, .register _ _, complete_next h⟩)
  | call =>
    simp only [exec, execCall] at h
    obtain ⟨-, h⟩ := withCell_next h
    obtain ⟨r, h⟩ := withCell_next h
    exact .inr (.inr ⟨_, _, .push _ _ _ _ r, complete_next h⟩)
  | ret =>
    simp only [exec, execRet] at h
    obtain ⟨-, h⟩ := withCell_next h
    exact .inr (.inr ⟨_, _, .pop _ _, complete_next h⟩)
  | skgt | skge | skeq | skle | sklt | nop => exact .inr (.inr ⟨_, _, .nothing, complete_next h⟩)
  | wch | wrl => exact .inr (.inr ⟨_, _, .emitted _, complete_next h⟩)
  | rch r =>
    rcases hi : s.inp with _ | ⟨c, rest⟩
    · simp only [exec, execRch, State.receive, hi] at h
      cases h; exact .inr (.inl ⟨⟨r, rfl⟩, rfl, rfl⟩)
    · simp only [exec, execRch, State.receive, hi] at h
      exact .inr (.inr ⟨_, _, .received c rest hi _ _, complete_next h⟩)
  | skov | sknov => cases h
  | x3_1 | x3_2 | x3_3 | x3_4 | x3_5 | x3_6 | x3_7 | x3_8 | x3_9 | x3_10 | x3_11 | x3_12 | x3_13 | x3_14 | x3_15 => cases h
  | _ => exact .inr (.inr ⟨_, _, .register _ _, complete_next h⟩)

/-- A step that answers a next state ran the instruction decoded from the word at the PC. -/
theorem step_next {s t : State} (h : step s = .next t) :
    ∃ w i, s.fetch = some w ∧ decode w = .instr i ∧ exec i s = .next t := by
  unfold step at h
  split at h
  · cases h
  · split at h
    · cases h
    · exact ⟨_, _, ‹_›, ‹_›, h⟩

theorem step_of_fetch {s : State} {w : Word} {i : Instr} (hw : s.fetch = some w) (hi : decode w = .instr i) :
    step s = exec i s := by
  simp [step, hw, hi]

end Sys2Proof.Machine
end

