-- ==== Sys2Proof/Tests/Slice0.lean ====
section
/-! SUPPORT. The model's own tests. Every expected value is a vector of spec/95_test_vectors.md (named by its table) or
is worked by hand from the rule cited. The theorems `test_meets_<Name>` show states and operands that meet all the
hypotheses of the statement `Obligations.<Name>`, or reach each of its clauses at the edge of its range. -/

namespace Sys2Proof.Tests

open Sys2Proof Sys2Proof.Machine

/-! ## Small states -/

/-- A machine of 4096 words with registers and cells set by the host, the PC at `pc` and the word `w` there. -/
def place (pc : Nat) (w : Word) (regs : List (Reg × Word)) (cells : List (Nat × Word)) : State :=
  let s := cells.foldl (fun s c => s.memWrite c.1 c.2) State.reset
  let s := regs.foldl (fun s r => s.setReg r.1 r.2) s
  (s.memWrite pc w).setReg pcReg (BitVec.ofNat 32 pc)

/-- The vectors' usual state: PC = 0x10. -/
abbrev atTen (w : Word) (regs : List (Reg × Word)) (cells : List (Nat × Word)) : State := place 0x10 w regs cells

/-- `s` with characters waiting on the input stream. -/
def withInput (cs : List Byte) (s : State) : State := cs.foldl (fun s c => supplyChar c s) s

/-- The state an outcome leads to. -/
def ended : Host.Outcome State Fault Refusal → Option State
  | .next t => some t
  | .fault _ => none
  | .refused _ => none

/-- The fault an outcome is. -/
def stop : Host.Outcome State Fault Refusal → Option Fault
  | .next _ => none
  | .fault f => some f
  | .refused _ => none

/-- Register `r` and the PC after a step that goes on. -/
def saw (r : Reg) (o : Host.Outcome State Fault Refusal) : Option (Word × Word) :=
  (ended o).map fun t => (t.reg r, t.pc)

/-- The cell at `a` and the PC after a step that goes on. -/
def sawCell (a : Nat) (o : Host.Outcome State Fault Refusal) : Option (Word × Word) :=
  (ended o).map fun t => (t.memRead a, t.pc)

theorem exists_next {o : Host.Outcome State Fault Refusal} {p : State → Prop} [DecidablePred p]
    (h : (ended o).any (fun t => decide (p t)) = true) : ∃ t, o = .next t ∧ p t := by
  cases o with
  | next t => exact ⟨t, rfl, of_decide_eq_true h⟩
  | fault f => cases h
  | refused r => cases h

theorem is_fault {o : Host.Outcome State Fault Refusal} {f : Fault} (h : stop o = some f) : o = .fault f := by
  cases o with
  | next t => cases h
  | fault g => cases h; rfl
  | refused r => cases h

theorem exists_hostStep {s : State} {p : Status → State → Prop} [∀ st t, Decidable (p st t)]
    (h : (hostStep s).any (fun r => decide (p r.1 r.2)) = true) : ∃ st t, hostStep s = some (st, t) ∧ p st t := by
  cases e : hostStep s with
  | none => rw [e] at h; cases h
  | some r => rw [e] at h; exact ⟨r.1, r.2, rfl, of_decide_eq_true h⟩

/-! ## Well-formedness: an ill-formed term for each check, one past its bound (spec/30_encoding.md R83) -/

theorem test_wf_load_base : ¬ (Instr.load 0 0 1048576).WellFormed ∧ (Instr.load 0 0 1048575).WellFormed := by decide
theorem test_wf_store_base : ¬ (Instr.store 0 0 1048576).WellFormed ∧ (Instr.store 0 0 1048575).WellFormed := by decide
theorem test_wf_addm_base : ¬ (Instr.addm 0 0 1048576).WellFormed ∧ (Instr.addm 0 0 1048575).WellFormed := by decide
theorem test_wf_subm_base : ¬ (Instr.subm 0 0 1048576).WellFormed ∧ (Instr.subm 0 0 1048575).WellFormed := by decide
theorem test_wf_jump_base : ¬ (Instr.jump 0 1048576).WellFormed ∧ (Instr.jump 0 1048575).WellFormed := by decide
theorem test_wf_call_base : ¬ (Instr.call 0 1048576).WellFormed ∧ (Instr.call 0 1048575).WellFormed := by decide
theorem test_wf_sll_count : ¬ (Instr.sll 0 32).WellFormed ∧ (Instr.sll 0 31).WellFormed := by decide
theorem test_wf_srl_count : ¬ (Instr.srl 0 32).WellFormed ∧ (Instr.srl 0 31).WellFormed := by decide
theorem test_wf_sla_count : ¬ (Instr.sla 0 32).WellFormed ∧ (Instr.sla 0 31).WellFormed := by decide
theorem test_wf_sra_count : ¬ (Instr.sra 0 32).WellFormed ∧ (Instr.sra 0 31).WellFormed := by decide
theorem test_wf_rol_count : ¬ (Instr.rol 0 32).WellFormed ∧ (Instr.rol 0 31).WellFormed := by decide
theorem test_wf_ror_count : ¬ (Instr.ror 0 32).WellFormed ∧ (Instr.ror 0 31).WellFormed := by decide

/-! ## Decoding: words written out bit by bit from the formats of spec/30_encoding.md R65 to R71 and the opcodes of R80 -/

theorem test_decode_halt : decode 0b00000000000000000000000000000000#32 = .instr (.halt) := by decide
theorem test_decode_load : decode 0b0001_0010_0011_01000101011001111000#32 = .instr (.load 3 2 0x45678) := by decide
theorem test_decode_store : decode 0b0010_1111_0101_00000000001000000000#32 = .instr (.store 5 15 0x200) := by decide
theorem test_decode_addm : decode 0b0011_0001_0010_00000000000001000000#32 = .instr (.addm 2 1 0x40) := by decide
theorem test_decode_subm : decode 0b0100_0000_0001_11111111111111111111#32 = .instr (.subm 1 0 0xFFFFF) := by decide
theorem test_decode_jump : decode 0b0101_1111_0000_00000000000000000011#32 = .instr (.jump 15 3) := by decide
theorem test_decode_call : decode 0b0110_1110_0000_00000000000001000000#32 = .instr (.call 14 0x40) := by decide
theorem test_decode_ldu : decode 0b0000_0001_0001_10000000000000000000#32 = .instr (.ldu 1 0x80000#20) := by decide
theorem test_decode_lds : decode 0b0000_0010_0001_11111111111111111000#32 = .instr (.lds 1 0xFFFF8#20) := by decide
theorem test_decode_addi : decode 0b0000_0011_1111_00000000000000000101#32 = .instr (.addi 15 5#20) := by decide
theorem test_decode_subi : decode 0b0000_0100_0010_00000000000000000001#32 = .instr (.subi 2 1#20) := by decide
theorem test_decode_ori : decode 0b0000_0101_0001_00000000000011110000#32 = .instr (.ori 1 0xF0#20) := by decide
theorem test_decode_andi : decode 0b0000_0110_0011_00000000000011111111#32 = .instr (.andi 3 0xFF#20) := by decide
theorem test_decode_xori : decode 0b0000_0111_0011_11111111111111111111#32 = .instr (.xori 3 0xFFFFF#20) := by decide
theorem test_decode_sll : decode 0b00000000_0001_0001_00100_00000000000#32 = .instr (.sll 1 4) := by decide
theorem test_decode_srl : decode 0b00000000_0010_0001_11111_00000000000#32 = .instr (.srl 1 31) := by decide
theorem test_decode_sla : decode 0b00000000_0011_0010_00001_00000000000#32 = .instr (.sla 2 1) := by decide
theorem test_decode_sra : decode 0b00000000_0100_0001_00111_00000000000#32 = .instr (.sra 1 7) := by decide
theorem test_decode_rol : decode 0b00000000_0101_1111_00000_00000000000#32 = .instr (.rol 15 0) := by decide
theorem test_decode_ror : decode 0b00000000_0110_0001_10000_00000000000#32 = .instr (.ror 1 16) := by decide
theorem test_decode_mov : decode 0b000000000000_0001_0001_0010_00000000#32 = .instr (.mov 1 2) := by decide
theorem test_decode_add : decode 0b000000000000_0010_0001_0010_00000000#32 = .instr (.add 1 2) := by decide
theorem test_decode_sub : decode 0b000000000000_0011_0001_0010_00000000#32 = .instr (.sub 1 2) := by decide
theorem test_decode_or : decode 0b000000000000_0100_0001_0010_00000000#32 = .instr (.or 1 2) := by decide
theorem test_decode_and : decode 0b000000000000_0101_0001_0010_00000000#32 = .instr (.and 1 2) := by decide
theorem test_decode_xor : decode 0b000000000000_0110_0001_0010_00000000#32 = .instr (.xor 1 2) := by decide
theorem test_decode_skgt : decode 0b000000000000_0111_0001_0010_00000000#32 = .instr (.skgt 1 2) := by decide
theorem test_decode_skge : decode 0b000000000000_1000_0001_0010_00000000#32 = .instr (.skge 1 2) := by decide
theorem test_decode_skeq : decode 0b000000000000_1001_0001_0010_00000000#32 = .instr (.skeq 1 2) := by decide
theorem test_decode_skle : decode 0b000000000000_1010_0001_0010_00000000#32 = .instr (.skle 1 2) := by decide
theorem test_decode_sklt : decode 0b000000000000_1011_0001_0010_00000000#32 = .instr (.sklt 1 2) := by decide
theorem test_decode_skov : decode 0b000000000000_1100_0001_0010_00000000#32 = .instr (.skov 0x1200#16) := by decide
theorem test_decode_sknov : decode 0b000000000000_1101_1111_1111_11111111#32 = .instr (.sknov 0xFFFF#16) := by decide
theorem test_decode_x3_1 : decode 0b0000000000000000_0001_101001011100#32 = .instr (.x3_1 0xA5C#12) := by decide
theorem test_decode_x3_2 : decode 0b0000000000000000_0010_101001011100#32 = .instr (.x3_2 0xA5C#12) := by decide
theorem test_decode_x3_3 : decode 0b0000000000000000_0011_101001011100#32 = .instr (.x3_3 0xA5C#12) := by decide
theorem test_decode_x3_4 : decode 0b0000000000000000_0100_101001011100#32 = .instr (.x3_4 0xA5C#12) := by decide
theorem test_decode_x3_5 : decode 0b0000000000000000_0101_101001011100#32 = .instr (.x3_5 0xA5C#12) := by decide
theorem test_decode_x3_6 : decode 0b0000000000000000_0110_101001011100#32 = .instr (.x3_6 0xA5C#12) := by decide
theorem test_decode_x3_7 : decode 0b0000000000000000_0111_101001011100#32 = .instr (.x3_7 0xA5C#12) := by decide
theorem test_decode_x3_8 : decode 0b0000000000000000_1000_101001011100#32 = .instr (.x3_8 0xA5C#12) := by decide
theorem test_decode_x3_9 : decode 0b0000000000000000_1001_101001011100#32 = .instr (.x3_9 0xA5C#12) := by decide
theorem test_decode_x3_10 : decode 0b0000000000000000_1010_101001011100#32 = .instr (.x3_10 0xA5C#12) := by decide
theorem test_decode_x3_11 : decode 0b0000000000000000_1011_101001011100#32 = .instr (.x3_11 0xA5C#12) := by decide
theorem test_decode_x3_12 : decode 0b0000000000000000_1100_101001011100#32 = .instr (.x3_12 0xA5C#12) := by decide
theorem test_decode_x3_13 : decode 0b0000000000000000_1101_101001011100#32 = .instr (.x3_13 0xA5C#12) := by decide
theorem test_decode_x3_14 : decode 0b0000000000000000_1110_101001011100#32 = .instr (.x3_14 0xA5C#12) := by decide
theorem test_decode_x3_15 : decode 0b0000000000000000_1111_101001011100#32 = .instr (.x3_15 0xA5C#12) := by decide
theorem test_decode_wch : decode 0b00000000000000000000_0001_0001_0000#32 = .instr (.wch 1) := by decide
theorem test_decode_rch : decode 0b00000000000000000000_0010_0010_0000#32 = .instr (.rch 2) := by decide
theorem test_decode_wrl : decode 0b00000000000000000000_0011_1111_0000#32 = .instr (.wrl 15) := by decide
theorem test_decode_nop : decode 0b000000000000000000000000_0001_0000#32 = .instr (.nop) := by decide
theorem test_decode_ret : decode 0b000000000000000000000000_0010_0000#32 = .instr (.ret) := by decide

/-- L2.1, the rejected words: no family, an undefined opcode of each family, a should-be-zero bit of each format. -/
theorem test_decode_rejects :
    decode 0x00000001#32 = .invalid .noFamily ∧ decode 0x0000000F#32 = .invalid .noFamily ∧
    decode 0x70000000#32 = .invalid .undefinedOpcode ∧ decode 0x08000000#32 = .invalid .undefinedOpcode ∧
    decode 0x00700000#32 = .invalid .undefinedOpcode ∧ decode 0x000E0000#32 = .invalid .undefinedOpcode ∧
    decode 0x00000410#32 = .invalid .undefinedOpcode ∧ decode 0x00000030#32 = .invalid .undefinedOpcode := by decide

theorem test_decode_should_be_zero :
    decode 0x50100000#32 = .invalid .shouldBeZero ∧ decode 0x60200040#32 = .invalid .shouldBeZero ∧
    decode 0x00112001#32 = .invalid .shouldBeZero ∧ decode 0x00112400#32 = .invalid .shouldBeZero ∧
    decode 0x00021280#32 = .invalid .shouldBeZero ∧ decode 0x00000111#32 = .invalid .shouldBeZero ∧
    decode 0x00000011#32 = .invalid .shouldBeZero := by decide

/-- spec/30_encoding.md R83: the encoder on one instruction of each format, against the word of the vectors. -/
theorem test_encode :
    encode (.load 3 2 0x45678) = 0x12345678#32 ∧ encode (.call 0 0x40) = 0x60000040#32 ∧
    encode (.lds 1 0xFFFF8#20) = 0x021FFFF8#32 ∧ encode (.sll 1 4) = 0x00112000#32 ∧
    encode (.skeq 1 2) = 0x00091200#32 ∧ encode (.wrl 3) = 0x00000330#32 ∧ encode .ret = 0x00000020#32 := by decide

theorem test_table_word : decodeTableWord 32 0x12345678 = some (.load 3 2 0x45678) ∧ decodeTableWord 32 0x70000000 = none := by
  decide

/-- The word stored for the host's question is the one the first step after reset runs: here NOP, PC 0 to 1. -/
theorem test_fetch_word : saw 0 (step (State.reset.withFetchWord 32 0x10)) = some (0#32, 1#32) := by decide

/-! ## One step of each instruction (spec/95_test_vectors.md L2.2 to L2.9) -/

theorem test_load_negative_index : saw 3 (step (atTen 0x12300100#32 [(2, 0xFFFFFFFF#32)] [(0xFF, 0x22#32)])) = some (0x22#32, 0x11#32) := by decide
theorem test_load_pc_is_advanced : saw 15 (step (atTen 0x10F00100#32 [] [(0x100, 0x40#32)])) = some (0x41#32, 0x41#32) := by decide
theorem test_store_own_address : sawCell 0x200 (step (atTen 0x20F00200#32 [] [])) = some (0x10#32, 0x11#32) := by decide
theorem test_store_word : sawCell 0x200 (step (atTen 0x20500200#32 [(5, 0x2A#32)] [])) = some (0x2A#32, 0x11#32) := by decide
theorem test_addm_wraps : saw 1 (step (atTen 0x30100300#32 [(1, 0x7FFFFFFF#32)] [(0x300, 0x1#32)])) = some (0x80000000#32, 0x11#32) := by decide
theorem test_addm_out_of_range : stop (step (atTen 0x30101000#32 [(1, 0x1#32)] [])) = some .outOfRange := by decide
theorem test_subm_order : saw 1 (step (atTen 0x40100300#32 [(1, 0x7#32)] [(0x300, 0xA#32)])) = some (0xFFFFFFFD#32, 0x11#32) := by decide
theorem test_subm_out_of_range : stop (step (atTen 0x42100000#32 [(2, 0xFFFFFFFF#32)] [])) = some .outOfRange := by decide
theorem test_jump_relative_to_pc : saw 0 (step (atTen 0x5F000003#32 [] [])) = some (0x0#32, 0x13#32) := by decide
theorem test_jump_out_of_range : stop (step (atTen 0x50001000#32 [] [])) = some .outOfRange := by decide
theorem test_call_at_top_of_memory : sawCell 0xFFF (step (atTen 0x60000040#32 [(14, 0x1000#32)] [])) = some (0x10#32, 0x40#32) := by decide
theorem test_call_target_uses_old_sp : saw 14 (step (atTen 0x6E000000#32 [(14, 0x800#32)] [])) = some (0x7FF#32, 0x800#32) := by decide
theorem test_ldu_zero_extends : saw 1 (step (atTen 0x01180000#32 [] [])) = some (0x80000#32, 0x11#32) := by decide
theorem test_ldu_pc_is_advanced : saw 15 (step (atTen 0x01F00040#32 [] [])) = some (0x41#32, 0x41#32) := by decide
theorem test_lds_bit_19_set : saw 1 (step (atTen 0x02180000#32 [] [])) = some (0xFFF80000#32, 0x11#32) := by decide
theorem test_lds_bit_19_clear : saw 1 (step (atTen 0x0217FFFF#32 [] [])) = some (0x7FFFF#32, 0x11#32) := by decide
theorem test_addi_wraps : saw 2 (step (atTen 0x03200001#32 [(2, 0x7FFFFFFF#32)] [])) = some (0x80000000#32, 0x11#32) := by decide
theorem test_addi_pc : saw 15 (step (atTen 0x03F00005#32 [] [])) = some (0x16#32, 0x16#32) := by decide
theorem test_subi_wraps : saw 2 (step (atTen 0x04200001#32 [(2, 0x80000000#32)] [])) = some (0x7FFFFFFF#32, 0x11#32) := by decide
theorem test_subi_negative : saw 2 (step (atTen 0x042FFFFF#32 [(2, 0xFFFFFFFF#32)] [])) = some (0x0#32, 0x11#32) := by decide
theorem test_ori_keeps_pc : saw 1 (step (atTen 0x05180000#32 [(1, 0x1#32)] [])) = some (0xFFF80001#32, 0x10#32) := by decide
theorem test_ori_pc_jumps : saw 15 (step (atTen 0x05F00003#32 [] [])) = some (0x13#32, 0x13#32) := by decide
theorem test_andi_clear_sign : saw 3 (step (atTen 0x063000FF#32 [(3, 0x12345678#32)] [])) = some (0x78#32, 0x11#32) := by decide
theorem test_andi_set_sign : saw 3 (step (atTen 0x063FFF00#32 [(3, 0x12345678#32)] [])) = some (0x12345600#32, 0x11#32) := by decide
theorem test_xori_complements : saw 3 (step (atTen 0x073FFFFF#32 [(3, 0xFFFF#32)] [])) = some (0xFFFF0000#32, 0x11#32) := by decide
theorem test_sll_31 : saw 1 (step (atTen 0x0011F800#32 [(1, 0x80000001#32)] [])) = some (0x80000000#32, 0x11#32) := by decide +kernel
theorem test_srl_31 : saw 1 (step (atTen 0x0021F800#32 [(1, 0x80000001#32)] [])) = some (0x1#32, 0x11#32) := by decide +kernel
theorem test_sla_31 : saw 1 (step (atTen 0x0031F800#32 [(1, 0x80000001#32)] [])) = some (0x80000000#32, 0x11#32) := by decide +kernel
theorem test_sra_31 : saw 1 (step (atTen 0x0041F800#32 [(1, 0x80000001#32)] [])) = some (0xFFFFFFFF#32, 0x11#32) := by decide +kernel
theorem test_rol_4 : saw 1 (step (atTen 0x00512000#32 [(1, 0x80000001#32)] [])) = some (0x18#32, 0x11#32) := by decide
theorem test_ror_4 : saw 1 (step (atTen 0x00612000#32 [(1, 0x80000001#32)] [])) = some (0x18000000#32, 0x11#32) := by decide
theorem test_sll_pc : saw 15 (step (atTen 0x001F0800#32 [] [])) = some (0x21#32, 0x21#32) := by decide
theorem test_srl_0 : saw 1 (step (atTen 0x00210000#32 [(1, 0x80000001#32)] [])) = some (0x80000001#32, 0x11#32) := by decide
theorem test_sla_loses_sign : saw 1 (step (atTen 0x00310800#32 [(1, 0x40000000#32)] [])) = some (0x80000000#32, 0x11#32) := by decide
theorem test_sra_positive : saw 1 (step (atTen 0x00410800#32 [(1, 0x40000000#32)] [])) = some (0x20000000#32, 0x11#32) := by decide
theorem test_rol_31 : saw 1 (step (atTen 0x0051F800#32 [(1, 0x80000001#32)] [])) = some (0xC0000000#32, 0x11#32) := by decide +kernel
theorem test_ror_31 : saw 1 (step (atTen 0x0061F800#32 [(1, 0x80000001#32)] [])) = some (0x3#32, 0x11#32) := by decide +kernel
theorem test_mov_from_pc : saw 2 (step (atTen 0x00012F00#32 [] [])) = some (0x10#32, 0x11#32) := by decide
theorem test_mov_to_pc : saw 15 (step (atTen 0x0001F200#32 [(2, 0x40#32)] [])) = some (0x41#32, 0x41#32) := by decide
theorem test_add_same : saw 1 (step (atTen 0x00021100#32 [(1, 0x7FFFFFFF#32)] [])) = some (0xFFFFFFFE#32, 0x11#32) := by decide
theorem test_sub_order : saw 1 (step (atTen 0x00031200#32 [(1, 0x3#32), (2, 0x4#32)] [])) = some (0xFFFFFFFF#32, 0x11#32) := by decide
theorem test_or : saw 1 (step (atTen 0x00041200#32 [(1, 0xF0#32), (2, 0xF#32)] [])) = some (0xFF#32, 0x11#32) := by decide
theorem test_and : saw 1 (step (atTen 0x00051200#32 [(1, 0xFF#32), (2, 0xF#32)] [])) = some (0xF#32, 0x11#32) := by decide
theorem test_xor : saw 1 (step (atTen 0x00061200#32 [(1, 0xFF#32), (2, 0xF#32)] [])) = some (0xF0#32, 0x11#32) := by decide
theorem test_skgt_is_signed : saw 1 (step (atTen 0x00071200#32 [(1, 0xFFFFFFFF#32), (2, 0x1#32)] [])) = some (0xFFFFFFFF#32, 0x12#32) := by decide
theorem test_skgt_equal : saw 1 (step (atTen 0x00071100#32 [(1, 0x5#32)] [])) = some (0x5#32, 0x11#32) := by decide
theorem test_skge_equal : saw 1 (step (atTen 0x00081200#32 [(1, 0x7#32), (2, 0x7#32)] [])) = some (0x7#32, 0x12#32) := by decide
theorem test_skge_less : saw 1 (step (atTen 0x00081200#32 [(1, 0x7#32), (2, 0x6#32)] [])) = some (0x7#32, 0x11#32) := by decide
theorem test_skeq_taken : saw 1 (step (atTen 0x00091200#32 [(1, 0x7#32), (2, 0x7#32)] [])) = some (0x7#32, 0x12#32) := by decide
theorem test_skeq_at_top : saw 1 (step (place 0xFFE 0x00091200#32 [(1, 0x7#32), (2, 0x7#32)] [])) = some (0x7#32, 0x1000#32) := by decide
theorem test_skle_most_negative : saw 1 (step (atTen 0x000A1200#32 [(2, 0x80000000#32)] [])) = some (0x0#32, 0x12#32) := by decide
theorem test_skle_greater : saw 1 (step (atTen 0x000A1200#32 [(1, 0x5#32), (2, 0x7#32)] [])) = some (0x5#32, 0x11#32) := by decide
theorem test_sklt_most_negative : saw 1 (step (atTen 0x000B1200#32 [(1, 0x7FFFFFFF#32), (2, 0x80000000#32)] [])) = some (0x7FFFFFFF#32, 0x12#32) := by decide
theorem test_sklt_equal : saw 1 (step (atTen 0x000B1200#32 [(1, 0x7#32), (2, 0x7#32)] [])) = some (0x7#32, 0x11#32) := by decide
theorem test_skov : stop (step (atTen 0x000C1200#32 [] [])) = some .notImplemented := by decide
theorem test_sknov : stop (step (atTen 0x000DFFFF#32 [] [])) = some .notImplemented := by decide
theorem test_x3_1 : stop (step (atTen 0x00001234#32 [] [])) = some .notImplemented := by decide
theorem test_x3_2 : stop (step (atTen 0x00002234#32 [] [])) = some .notImplemented := by decide
theorem test_x3_3 : stop (step (atTen 0x00003234#32 [] [])) = some .notImplemented := by decide
theorem test_x3_4 : stop (step (atTen 0x00004234#32 [] [])) = some .notImplemented := by decide
theorem test_x3_5 : stop (step (atTen 0x00005234#32 [] [])) = some .notImplemented := by decide
theorem test_x3_6 : stop (step (atTen 0x00006234#32 [] [])) = some .notImplemented := by decide
theorem test_x3_7 : stop (step (atTen 0x00007234#32 [] [])) = some .notImplemented := by decide
theorem test_x3_8 : stop (step (atTen 0x00008234#32 [] [])) = some .notImplemented := by decide
theorem test_x3_9 : stop (step (atTen 0x00009234#32 [] [])) = some .notImplemented := by decide
theorem test_x3_10 : stop (step (atTen 0x0000A234#32 [] [])) = some .notImplemented := by decide
theorem test_x3_11 : stop (step (atTen 0x0000B234#32 [] [])) = some .notImplemented := by decide
theorem test_x3_12 : stop (step (atTen 0x0000C234#32 [] [])) = some .notImplemented := by decide
theorem test_x3_13 : stop (step (atTen 0x0000D234#32 [] [])) = some .notImplemented := by decide
theorem test_x3_14 : stop (step (atTen 0x0000E234#32 [] [])) = some .notImplemented := by decide
theorem test_x3_15 : stop (step (atTen 0x0000FFFF#32 [] [])) = some .notImplemented := by decide
theorem test_wch_low_byte : (ended (step (atTen 0x00000110#32 [(1, 0x12345648#32)] []))).map (fun t => (t.out, t.pc)) =
    some ([.char 0x48#8], 0x11#32) := by decide
theorem test_wch_pc : (ended (step (place 0x141 0x000001F0#32 [] []))).map (fun t => (t.out, t.pc)) =
    some ([.char 0x41#8], 0x142#32) := by decide
theorem test_rch_low_byte : (ended (step (withInput [0x41#8, 0x42#8] (atTen 0x00000220#32 [(2, 0xAABBCCDD#32)] [])))).map
    (fun t => (t.reg 2, t.pc, t.inp)) = some (0xAABBCC41#32, 0x11#32, [0x42#8]) := by decide
theorem test_rch_pc : saw 15 (step (withInput [0x20#8] (atTen 0x000002F0#32 [] []))) = some (0x21#32, 0x21#32) := by decide
theorem test_wrl_dump : (ended (step (atTen 0x00000330#32 [(3, 7#32)] []))).map (fun t => (t.out, t.pc)) =
    some ([.regLine 3 ⟨#[0#32, 0#32, 0#32, 7#32, 0#32, 0#32, 0#32, 0#32, 0#32, 0#32, 0#32, 0#32, 0#32, 0#32, 0#32,
      0x10#32], rfl⟩], 0x11#32) := by decide
theorem test_nop_top : saw 0 (step (place 0xFFF 0x00000010#32 [] [])) = some (0x0#32, 0x1000#32) := by decide
theorem test_ret_resumes_after_call : saw 14 (step (atTen 0x00000020#32 [(14, 0x7FF#32)] [(0x7FF, 0x10#32)])) = some (0x800#32, 0x11#32) := by decide
theorem test_ret_wraps : saw 14 (step (atTen 0x00000020#32 [(14, 0x7FF#32)] [(0x7FF, 0xFFFFFFFF#32)])) = some (0x800#32, 0x0#32) := by decide
theorem test_halt : (ended (step (place 7 0#32 [] []))).map (fun t => (t.status, t.pc)) = some (some .halt, 7#32) := by
  decide

/-! ## Driver, memory and host -/

/-- L2.9: decode comes before the effective address. -/
theorem test_check_order : stop (step (atTen 0x70001000#32 [] [])) = some .invalidInstruction := by decide

/-- The numbers of spec/60_exceptions.md R281 and the status each fault returns. -/
theorem test_status_codes : Status.ok.code = 0 ∧ Status.halt.code = 1 ∧ Fault.invalidInstruction.toStatus.code = 2 ∧
    Fault.notImplemented.toStatus.code = 3 ∧ Fault.outOfRange.toStatus.code = 4 := by decide

theorem test_memory_write_keeps_form :
    Memory.write (Memory.write (Memory.write [] 5 1#32) 3 2#32) 5 0#32 = [(3, 2#32)] := by decide

theorem test_memory_wf_refuses : Memory.wf [(5, 1#32), (3, 2#32)] = false ∧ Memory.wf [(3, 0#32)] = false ∧
    Memory.wf [(3, 2#32), (3, 1#32)] = false ∧ Memory.wf [(3, 2#32), (5, 1#32)] = true := by decide

/-- L2.10. -/
theorem test_host_bounds : getRegister 16 State.reset = .failed .outOfRange ∧ getRegister (-1) State.reset = .failed .outOfRange ∧
    readMemory 0x1000 State.reset = .failed .outOfRange ∧ (writeMemory (-1) 0#32 State.reset).1 = .outOfRange ∧
    (setRegister 16 5#32 State.reset).1 = .outOfRange := by decide

theorem test_load_image : readMemory 1 (loadImage [(0, 0x10#32), (1, 0x70000000#32)] State.reset) = .word 0x70000000#32 := by
  decide

/-! ## The statements' hypotheses are met -/

theorem test_meets_DecodeOfEncodeGivesInstruction :
    (Instr.load 15 15 0xFFFFF).WellFormed ∧ (Instr.ror 15 31).WellFormed ∧ Instr.halt.WellFormed :=
  by decide

theorem test_meets_EncodeOfDecodeGivesWord :
    decode 0x123FFFFF#32 = .instr (.load 3 2 0xFFFFF) ∧ decode 0x0061F800#32 = .instr (.ror 1 31) :=
  by decide

theorem test_meets_OpcodeTableRowsDecideDecoding :
    decode 0x00FFFFFF#32 ≠ .instr .halt ∧ (Instr.jump 1 2).row.matchesWord 0x50000000#32 = true ∧
      (Instr.jump 1 2).row.matchesWord 0x50100000#32 = false ∧ decode 0x12300100#32 = .instr (.load 3 2 0x100) :=
  by decide

theorem test_meets_OpcodeTableRowsDecideDecoding_no_row :
    ∃ w : Word, ∀ i : Instr, i.row.matchesWord w = false :=
  ⟨0xFFFFFFFF#32, by intro i; cases i <;> rfl⟩

theorem test_meets_SelectorIsMostSignificantNonzeroNibble :
    decode 0x00000010#32 = .instr .nop ∧ Instr.nop.familyOpcode = some (.x1, 1) ∧
      decode 0x6F0FFFFF#32 = .instr (.call 15 0xFFFFF) ∧ (Instr.call 15 0xFFFFF).familyOpcode = some (.x7, 6) :=
  by decide

theorem test_meets_UndefinedOpcodesAreExactlyTheTables :
    7 ≤ (0x70000000#32).toNat / 2 ^ 28 ∧ 8 ≤ (0x08000000#32).toNat / 2 ^ 24 ∧ (0x0FFFFFFF#32).toNat / 2 ^ 24 ≤ 15 ∧
      7 ≤ (0x00700000#32).toNat / 2 ^ 20 ∧ (0x000FFFFF#32).toNat / 2 ^ 16 ≤ 15 ∧ 14 ≤ (0x000E0000#32).toNat / 2 ^ 16 ∧
      4 ≤ (0x00000400#32).toNat / 2 ^ 8 ∧ 3 ≤ (0x00000030#32).toNat / 2 ^ 4 ∧ decode 0x6FFFFFFF#32 ≠ .invalid .undefinedOpcode :=
  by decide

theorem test_meets_ShouldBeZeroBitsAreChecked :
    decode 0x50100000#32 = .invalid .shouldBeZero ∧ decode 0x00100001#32 = .invalid .shouldBeZero ∧
      decode 0x00600400#32 = .invalid .shouldBeZero ∧ decode 0x000B0080#32 = .invalid .shouldBeZero ∧
      decode 0x00000308#32 = .invalid .shouldBeZero ∧ decode 0x00000028#32 = .invalid .shouldBeZero ∧
      decode 0x000C00FF#32 ≠ .invalid .shouldBeZero :=
  by decide

theorem test_meets_WordsWithoutFamilyAreInvalid :
    decode 1#32 = .invalid .noFamily ∧ decode 15#32 = .invalid .noFamily ∧ decode 0#32 ≠ .invalid .noFamily ∧
      decode 16#32 ≠ .invalid .noFamily :=
  by decide

theorem test_meets_ReservedWordsReturnNotImplemented :
    (atTen 0x000CFFFF#32 [] []).fetch = some 0x000CFFFF#32 ∧ (0x000CFFFF#32).toNat / 2 ^ 16 = 12 ∧
      (atTen 0x000D0000#32 [] []).fetch = some 0x000D0000#32 ∧ (0x000D0000#32).toNat / 2 ^ 16 = 13 ∧
      (atTen 0x00001000#32 [] []).fetch = some 0x00001000#32 ∧ (0x00001000#32).toNat / 2 ^ 12 = 1 ∧
      (atTen 0x0000FFFF#32 [] []).fetch = some 0x0000FFFF#32 ∧ (0x0000FFFF#32).toNat / 2 ^ 12 = 15 :=
  by decide

theorem test_meets_FreshMachineHalts :
    SizeOk 1 ∧ SizeOk 2147483648 ∧ ¬ SizeOk 0 ∧ ¬ SizeOk 2147483649 :=
  by decide

theorem test_meets_StepKeepsInvariant :
    ∃ s t : State, s.Inv ∧ step s = .next t ∧ t.memRead 0xFFF = 0x10#32 :=
  by
  obtain ⟨t, h, m⟩ := exists_next (o := step (atTen 0x60000040#32 [(14, 0x1000#32)] []))
    (p := fun t => t.memRead 0xFFF = 0x10#32) (by decide)
  exact ⟨_, t, ⟨by decide, by decide, by decide⟩, h, m⟩

theorem test_meets_StepRunsDecodedInstruction :
    ∃ s : State, s.pc.toInt = 0 ∧ 0 < s.size ∧ decode (s.memRead s.pc.toNat) = .instr .halt :=
  ⟨State.reset, by decide⟩

theorem test_meets_StepRunsDecodedInstruction_last_cell :
    (place 0xFFF 0x10#32 [] []).pc.toInt + 1 = (place 0xFFF 0x10#32 [] []).size ∧
      decode ((place 0xFFF 0x10#32 [] []).memRead (place 0xFFF 0x10#32 [] []).pc.toNat) = .instr .nop :=
  by decide

theorem test_meets_StepChecksFetchThenDecode :
    (State.reset.setReg 15 0xFFFFFFFF#32).pc.toInt = -1 ∧ (State.reset.setReg 15 0x1000#32).pc.toInt = State.reset.size ∧
      (atTen 0x70001000#32 [] []).pc.toInt = 16 ∧
      decode ((atTen 0x70001000#32 [] []).memRead (atTen 0x70001000#32 [] []).pc.toNat) = .invalid .undefinedOpcode :=
  by decide

/-- Each cause of each fault occurs: two words, the PC, an effective address, a push slot, a pop slot. -/
theorem test_meets_StepFaultsExactlyByCause :
    stop (step (atTen 1#32 [] [])) = some .invalidInstruction ∧ stop (step (atTen 0x1000#32 [] [])) = some .notImplemented ∧
    stop (step (place 0x1000 0x10#32 [] [])) = some .outOfRange ∧ stop (step (atTen 0x10301000#32 [] [])) = some .outOfRange ∧
    stop (step (atTen 0x60000040#32 [(14, 0x1001#32)] [])) = some .outOfRange ∧
    stop (step (atTen 0x60000040#32 [] [])) = some .outOfRange ∧
    stop (step (atTen 0x20#32 [(14, 0x1000#32)] [])) = some .outOfRange ∧
    stop (step (atTen 0x20#32 [(14, 0xFFFFFFFF#32)] [])) = some .outOfRange := by decide

theorem test_meets_NonOkStatusChangesNothing :
    (∃ st t, hostStep State.reset = some (st, t) ∧ st ≠ .ok) ∧ ∃ st t, hostStep (atTen 1#32 [] []) = some (st, t) ∧ st ≠ .ok :=
  ⟨exists_hostStep (by decide), exists_hostStep (by decide)⟩

theorem test_meets_HaltAndFaultsRepeat :
    (∃ st t, hostStep State.reset = some (st, t) ∧ st = .halt ∧ st ≠ .ok) ∧
      ∃ st t, hostStep (atTen 0x1000#32 [] []) = some (st, t) ∧ st = .notImplemented ∧ st ≠ .ok :=
  ⟨exists_hostStep (by decide), exists_hostStep (by decide)⟩

theorem test_meets_NonTransferAdvancesPc :
    ∃ s t : State, exec (.skeq 1 2) s = .next t ∧ (t.status = some .ok ∧ t.pc = s.pc + 2#32) ∧ transfers (.skeq 1 2) = false ∧
      pcReg ∉ writtenRegs (.skeq 1 2) :=
  by
  obtain ⟨t, h, m⟩ := exists_next (o := exec (.skeq 1 2) State.reset)
    (p := fun t => t.status = some .ok ∧ t.pc = State.reset.pc + 2#32) (by decide)
  exact ⟨_, t, h, m, by decide, by decide⟩

theorem test_meets_UnwrittenRegistersKeepTheirWords :
    (∃ t, exec (.ldu 1 5#20) State.reset = .next t ∧ t.status = some .ok) ∧
      ∃ t, exec (.rch 1) State.reset = .next t ∧ t.status ≠ some .ok :=
  ⟨exists_next (by decide), exists_next (by decide)⟩

theorem test_meets_OnlyStoreAndCallWriteMemory :
    (∃ t, exec .nop State.reset = .next t ∧ True) ∧ (∀ d x base, Instr.nop ≠ .store d x base) ∧
      ∀ x base, Instr.nop ≠ .call x base :=
  ⟨exists_next (by decide), (fun _ _ _ h => nomatch h), (fun _ _ h => nomatch h)⟩

theorem test_meets_StreamsChangeOnlyByIoInstructions :
    (∃ t, exec (.wch 1) State.reset = .next t ∧ t.out ≠ []) ∧
      ∃ t, exec (.rch 1) (withInput [0x41#8] State.reset) = .next t ∧ t.inp = [] :=
  ⟨exists_next (by decide), exists_next (by decide)⟩

theorem test_meets_IntegerAndWrappedAddressAgree :
    SizeOk State.reset.size ∧ (1048575 : Nat) < 2 ^ 20 ∧
      (State.reset.setReg 2 0xFFF01000#32).effAddr 2 1048575 = 4095 ∧ (State.reset.setReg 2 0x7FFFFFFF#32).effAddr 2 1 = 2147483648 ∧
      ¬ (State.reset.setReg 2 0x7FFFFFFF#32).InRange ((1#32 + 0x7FFFFFFF#32).toInt) :=
  by decide

/-- The clauses of the X7 statements at the edges of memory: the last cell, SIZE, 0, -1; with and without an index. -/
theorem test_meets_LoadWritesMemoryWord :
    State.reset.effAddr 0 4095 = 4095 ∧ State.reset.InRange (State.reset.effAddr 0 4095) ∧
    ¬ State.reset.InRange (State.reset.effAddr 0 4096) ∧ (State.reset.setReg 2 0xFFFFFFFF#32).InRange ((State.reset.setReg 2 0xFFFFFFFF#32).effAddr 2 1) ∧
    ¬ State.reset.InRange ((State.reset.setReg 2 0xFFFFFFFF#32).effAddr 2 0) ∧ (0 : Nat) < 2 ^ 20 := by decide

theorem test_meets_StoreWritesOneCell : sawCell 4095 (exec (.store 5 0 4095) (State.reset.setReg 5 9#32)) = some (9#32, 1#32) ∧
    stop (exec (.store 5 0 4096) (State.reset.setReg 5 9#32)) = some .outOfRange := by decide

theorem test_meets_AddmSubmCombineMemoryWord :
    saw 1 (exec (.addm 1 0 4095) (State.reset.memWrite 4095 5#32)) = some (5#32, 1#32) ∧
    saw 1 (exec (.subm 1 0 4095) (State.reset.memWrite 4095 5#32)) = some (0xFFFFFFFB#32, 1#32) ∧
    stop (exec (.subm 1 0 4096) State.reset) = some .outOfRange := by decide

theorem test_meets_JumpSetsPc : saw 15 (exec (.jump 0 4095) State.reset) = some (4095#32, 4095#32) ∧
    stop (exec (.jump 0 4096) State.reset) = some .outOfRange := by decide

/-- SP = 0, 1, SIZE and SIZE + 1, and a target outside memory. -/
theorem test_meets_CallPushesOwnAddress : stop (exec (.call 0 0x40) State.reset) = some .outOfRange ∧
    saw 14 (exec (.call 0 0x40) (State.reset.setReg 14 1#32)) = some (0#32, 0x40#32) ∧
    saw 14 (exec (.call 0 0x40) (State.reset.setReg 14 4096#32)) = some (4095#32, 0x40#32) ∧
    stop (exec (.call 0 0x40) (State.reset.setReg 14 4097#32)) = some .outOfRange ∧
    stop (exec (.call 0 4096) (State.reset.setReg 14 1#32)) = some .outOfRange := by decide

theorem test_meets_CallThenRetResumesAfterCall :
    ∃ s t : State, s.fetch = some 0x60000040#32 ∧ decode 0x60000040#32 = .instr (.call 0 0x40) ∧ step s = .next t ∧
      t.fetch = some 0x00000020#32 :=
  by
  obtain ⟨t, h, m⟩ := exists_next (o := step (atTen 0x60000040#32 [(14, 0x800#32)] [(0x40, 0x20#32)]))
    (p := fun t => t.fetch = some 0x00000020#32) (by decide)
  exact ⟨_, t, by decide, by decide, h, m⟩

theorem test_meets_JumpToSelfRepeats :
    (place 0 0x5F000000#32 [] []).fetch = some 0x5F000000#32 ∧ (place 0xFFF 0x5F000000#32 [] []).fetch = some 0x5F000000#32 :=
  by decide

theorem test_meets_StoredInstructionRunsNext :
    ∃ (s : State) (w : Word), s.fetch = some w ∧ decode w = .instr (.store 5 0 0x11) ∧ s.effAddr 0 0x11 = s.pc.toInt + 1 ∧
      s.InRange (s.pc.toInt + 1) ∧ s.size ≤ 2 ^ 31 ∧ decode (s.reg 5) = .instr .nop :=
  ⟨atTen 0x20500011#32 [(5, 0x10#32)] [], 0x20500011#32, by decide⟩

/-- The clauses of the immediate statements at the edges 0x7FFFF and 0x80000, and with d = 15. -/
theorem test_meets_LdsSetsUpperBitsBySign : ¬ 2 ^ 19 ≤ (0x7FFFF#20).toNat ∧ 2 ^ 19 ≤ (0x80000#20).toNat ∧
    saw 1 (exec (.lds 1 0x7FFFF#20) State.reset) = some (0x7FFFF#32, 1#32) ∧
    saw 1 (exec (.lds 1 0x80000#20) State.reset) = some (0xFFF80000#32, 1#32) ∧
    saw 15 (exec (.lds 15 0xFFFFF#20) State.reset) = some (0#32, 0#32) := by decide

theorem test_meets_OriWithOtherRegisterHangs :
    ∃ s : State, s.fetch = some 0x051000F0#32 ∧ decode 0x051000F0#32 = .instr (.ori 1 0xF0#20) ∧ (1 : Reg) ≠ pcReg :=
  ⟨atTen 0x051000F0#32 [] [], by decide⟩

/-- Counts 0 and 31, and d = 15. -/
theorem test_meets_ShiftsHaveClosedForms : (0 : Nat) < 32 ∧ (31 : Nat) < 32 ∧
    saw 1 (exec (.ror 1 0) (State.reset.setReg 1 3#32)) = some (3#32, 1#32) ∧
    saw 15 (exec (.sra 15 31) (State.reset.setReg 15 0x80000000#32)) = some (0#32, 0#32) := by decide +kernel

theorem test_meets_RotateLeftThenRightIsIdentity :
    (0 : Nat) < 32 ∧ (31 : Nat) < 32 ∧ (1 : Reg) ≠ pcReg :=
  by decide

/-- Both outcomes of each ordered skip occur, at equality and beside it. -/
theorem test_meets_OrderedSkipsCompareSigned :
    saw 0 (exec (.skgt 1 2) (State.reset.setReg 2 1#32)) = some (0#32, 2#32) ∧ saw 0 (exec (.skgt 1 2) State.reset) = some (0#32, 1#32) ∧
    saw 0 (exec (.skge 1 2) State.reset) = some (0#32, 2#32) ∧ saw 0 (exec (.skge 1 2) (State.reset.setReg 1 1#32)) = some (0#32, 1#32) ∧
    saw 0 (exec (.skle 1 2) State.reset) = some (0#32, 2#32) ∧ saw 0 (exec (.skle 1 2) (State.reset.setReg 2 1#32)) = some (0#32, 1#32) ∧
    saw 0 (exec (.sklt 1 2) (State.reset.setReg 1 1#32)) = some (0#32, 2#32) ∧ saw 0 (exec (.sklt 1 2) State.reset) = some (0#32, 1#32) := by
  decide

theorem test_meets_SkippedWordHasNoEffect :
    ∃ s t : State, s.fetch = some 0x00091100#32 ∧ decode 0x00091100#32 = .instr (.skeq 1 1) ∧ isSkip (.skeq 1 1) = true ∧
      step s = .next t ∧ t.pc = s.pc + 2#32 :=
  by
  obtain ⟨t, h, m⟩ := exists_next (o := step (atTen 0x00091100#32 [] []))
    (p := fun t => t.pc = (atTen 0x00091100#32 [] []).pc + 2#32) (by decide)
  exact ⟨_, t, by decide, by decide, by decide, h, m⟩

theorem test_meets_ReadCharTakesOldestCharacter :
    (withInput [0x41#8, 0x42#8] State.reset).inp = 0x41#8 :: [0x42#8] ∧ (15 : Reg) = pcReg ∧ (0 : Reg) ≠ pcReg :=
  by decide

theorem test_meets_ReadCharWaitsForInput :
    ∃ s : State, s.fetch = some 0x00000220#32 ∧ decode 0x00000220#32 = .instr (.rch 2) ∧ s.inp = [] :=
  ⟨atTen 0x00000220#32 [] [], by decide⟩

/-- SP = 0, SIZE − 1, SIZE and −1. -/
theorem test_meets_RetPopsAndAdvances : saw 14 (exec .ret State.reset) = some (1#32, 1#32) ∧
    saw 14 (exec .ret (State.reset.setReg 14 4095#32)) = some (4096#32, 1#32) ∧
    stop (exec .ret (State.reset.setReg 14 4096#32)) = some .outOfRange ∧
    stop (exec .ret (State.reset.setReg 14 0xFFFFFFFF#32)) = some .outOfRange := by decide

theorem test_meets_GetRegisterReadsOrFails : getRegister 0 (State.reset.setReg 15 9#32) = .word 0#32 ∧
    getRegister 15 (State.reset.setReg 15 9#32) = .word 9#32 ∧ getRegister 16 State.reset = .failed .outOfRange ∧
    (15 : Int) = (15 : Reg).val := by decide

theorem test_meets_SetRegisterWritesOrFails : (setRegister 15 0xFFFFFFFF#32 State.reset).2.pc = 0xFFFFFFFF#32 ∧
    (setRegister 0 7#32 State.reset).1 = .ok ∧ setRegister (-1) 7#32 State.reset = (.outOfRange, State.reset) := by decide

theorem test_meets_HostMemoryReadsAndWrites : readMemory 4095 (writeMemory 4095 9#32 State.reset).2 = .word 9#32 ∧
    writeMemory 4096 9#32 State.reset = (.outOfRange, State.reset) ∧
    (writeMemory 0 9#32 State.reset).2.fetch = some 9#32 := by decide

/-- Both sides of the equivalence occur: a run that returns Halt after one OK step. -/
theorem test_meets_RunReturnsFirstNonOkStatus : ∃ st t, run 2 (place 0xF 0x10#32 [] []) = .returned st t ∧ st = .halt := by
  have e : (match run 2 (place 0xF 0x10#32 [] []) with | .returned .halt _ => true | _ => false) = true := by decide
  revert e
  cases r : run 2 (place 0xF 0x10#32 [] []) with
  | returned st t => cases st <;> intro e <;> first | exact ⟨_, _, rfl, rfl⟩ | cases e
  | waiting s => intro e; cases e
  | outOfFuel s => intro e; cases e

end Sys2Proof.Tests
end

section
/-! The invariant of the machine: it holds at construction, and every write of a handler, hence every step, keeps it. -/

namespace Sys2Proof.Machine

/-- Construction of any allowed size has the invariant: no cell is listed (spec/10_state.md R35). -/
theorem State.Inv.construct {size : Nat} (h : SizeOk size) : (State.construct size).Inv :=
  ⟨h, State.construct_canonical size, fun _ hc => absurd hc List.not_mem_nil⟩

/-- The invariant speaks of SIZE and memory only. -/
theorem State.Inv.congr {s t : State} (h : s.Inv) (size : t.size = s.size) (mem : t.mem = s.mem) : t.Inv := by
  unfold State.Inv
  rw [size, mem]
  exact h

/-- A write to a cell of memory keeps the invariant (spec/20_memory.md R41). -/
theorem State.Inv.memWrite {s : State} (h : s.Inv) {a : Int} (inRange : s.InRange a) (v : Word) :
    (s.memWrite a.toNat v).Inv := by
  obtain ⟨size, canonical, inside⟩ := h
  refine ⟨size, canonical.write _ _, fun c hc => ?_⟩
  rcases Memory.mem_write hc with old | rfl
  · exact inside c old
  · exact (Int.toNat_lt inRange.1).2 inRange.2

/-- A handler writes memory only where it checked the address, so its writes keep the invariant. -/
theorem HandlerWrites.keeps_inv {s t : State} (w : HandlerWrites s t) (h : s.Inv) : t.Inv := by
  cases w with
  | nothing => exact h
  | register | pop | emitted | received => exact h.congr rfl rfl
  | cell a v inRange => exact h.memWrite inRange v
  | push a v w u inRange => exact (h.memWrite inRange v).congr rfl rfl

theorem exec_keeps_inv {i : Instr} {s t : State} (h : s.Inv) (e : exec i s = .next t) : t.Inv := by
  obtain ⟨-, rfl⟩ | ⟨-, -, rfl⟩ | ⟨a, s', writes, rfl⟩ := exec_next_cases e
  · exact h.congr rfl rfl
  · exact h.congr rfl rfl
  · exact (writes.keeps_inv h).congr (by simp) (by simp)

/-- Settles O13: a step to a next state is a step of `exec`, whose only memory writes are the checked ones of STORE
and CALL. -/
theorem stepKeepsInvariant : Obligations.StepKeepsInvariant := by
  intro s t h hstep
  obtain ⟨w, i, -, -, hexec⟩ := step_next hstep
  exact exec_keeps_inv h hexec

/-- Settles O12: reset is a construction of an allowed size. -/
theorem invariantHoldsAtReset : Obligations.InvariantHoldsAtReset :=
  .construct (size := Config.resetSize) (by decide)

end Sys2Proof.Machine
end

section
/-! What a step changes outside the registers: each change with the instructions that may make it. The frames of memory
and of the streams (spec/10_state.md R32, R33) are read off it. -/

namespace Sys2Proof.Machine

/-- What instruction `i` changed outside the registers and the status, on a step from `s` to `t`. -/
inductive OutsideEffect (i : Instr) (s t : State) : Prop where
  | nothing (mem : t.mem = s.mem) (host : SameHostSide s t)
  | memory (writer : (∃ d x base, i = .store d x base) ∨ ∃ x base, i = .call x base) (host : SameHostSide s t)
  | emitted (writer : ∃ r, i = .wch r ∨ i = .wrl r) (e : OutEvent) (mem : t.mem = s.mem)
      (out : t.out = s.out ++ [e]) (inp : t.inp = s.inp) (size : t.size = s.size)
  | received (reader : ∃ r, i = .rch r) (c : Byte) (mem : t.mem = s.mem)
      (out : t.out = s.out) (inp : s.inp = c :: t.inp) (size : t.size = s.size)

/-- Of all instructions only STORE and CALL write memory, only WCH and WRL emit, and only RCH takes a character. The PC
action and the status of a completed step change nothing outside the registers. -/
theorem exec_outsideEffect {i : Instr} {s t : State} (h : exec i s = .next t) : OutsideEffect i s t := by
  cases i with
  | store d x base =>
    simp only [exec, execStore] at h
    obtain ⟨-, h⟩ := withCell_next h
    cases complete_next h
    exact .memory (.inl ⟨d, x, base, rfl⟩) ⟨rfl, rfl, rfl⟩
  | call x base =>
    simp only [exec, execCall] at h
    obtain ⟨-, h⟩ := withCell_next h
    obtain ⟨-, h⟩ := withCell_next h
    cases complete_next h
    exact .memory (.inr ⟨x, base, rfl⟩) ⟨rfl, rfl, rfl⟩
  | wch r => cases complete_next h; exact .emitted ⟨r, .inl rfl⟩ _ rfl rfl rfl rfl
  | wrl r => cases complete_next h; exact .emitted ⟨r, .inr rfl⟩ _ rfl rfl rfl rfl
  | rch r =>
    rcases hi : s.inp with _ | ⟨c, rest⟩ <;> simp only [exec, execRch, State.receive, hi] at h
    · cases h; exact .nothing rfl ⟨rfl, rfl, rfl⟩
    · cases complete_next h; exact .received ⟨r, rfl⟩ c rfl rfl hi rfl
  | load | addm | subm | jump | ret =>
    simp only [exec, execLoad, execAddm, execSubm, execJump, execRet] at h
    obtain ⟨-, h⟩ := withCell_next h
    cases complete_next h
    exact .nothing rfl ⟨rfl, rfl, rfl⟩
  | halt => cases h; exact .nothing rfl ⟨rfl, rfl, rfl⟩
  | skov | sknov => cases h
  | x3_1 | x3_2 | x3_3 | x3_4 | x3_5 | x3_6 | x3_7 | x3_8 | x3_9 | x3_10 | x3_11 | x3_12 | x3_13 | x3_14 | x3_15 => cases h
  | _ => cases complete_next h; exact .nothing rfl ⟨rfl, rfl, rfl⟩

/-- Settles O23: every effect but that of STORE and CALL keeps the memory list itself. -/
theorem onlyStoreAndCallWriteMemory : Obligations.OnlyStoreAndCallWriteMemory := by
  intro s t i h notStore notCall
  have same : t.mem = s.mem := by
    cases exec_outsideEffect h with
    | nothing mem | emitted _ _ mem | received _ _ mem => exact mem
    | memory writer =>
      obtain ⟨d, x, base, hi⟩ | ⟨x, base, hi⟩ := writer
      · exact absurd hi (notStore d x base)
      · exact absurd hi (notCall x base)
  exact fun a => congrArg (Memory.read · a) same

/-- Settles O24: the event list and the character list of each effect are read off its constructor. -/
theorem streamsChangeOnlyByIoInstructions : Obligations.StreamsChangeOnlyByIoInstructions := by
  intro s t i h
  cases exec_outsideEffect h with
  | nothing _ host | memory _ host =>
    obtain ⟨out, inp, size⟩ := host
    exact ⟨⟨[], by simp [out]⟩, ⟨[], by simp [inp]⟩, size⟩
  | emitted writer e _ out inp size =>
    exact ⟨⟨[e], out, le_rfl, fun _ => writer⟩, ⟨[], by simp [inp]⟩, size⟩
  | received reader c _ out inp size =>
    exact ⟨⟨[], by simp [out]⟩, ⟨[c], inp, le_rfl, fun _ => reader⟩, size⟩

end Sys2Proof.Machine
end

section
/-! A stored instruction runs next (spec/20_memory.md R54): what STORE completes with, and where the next fetch of an
advancing step reads. -/

namespace Sys2Proof.Machine

/-- STORE into a cell of memory completes with that one cell written (spec/41_memref_x7.md R102). -/
theorem exec_store_of_inRange {s : State} {x : Reg} {base : Nat} (h : s.InRange (s.effAddr x base)) (d : Reg) :
    exec (.store d x base) s = complete (.advance 1) (s.memWrite (s.effAddr x base).toNat (s.reg d)) :=
  withCell_of_inRange h fun ea => complete (.advance 1) (s.memWrite ea (s.reg d))

/-- The next address does not wrap while it is an address of a memory of at most 2^31 words. -/
theorem State.InRange.toInt_pc_add_one {s : State} (next : s.InRange (s.pc.toInt + 1)) (size : s.size ≤ 2 ^ 31) :
    (s.pc + 1#32).toInt = s.pc.toInt + 1 := by
  obtain ⟨-, below⟩ := next
  have lower : -2 ^ 31 ≤ s.pc.toInt := BitVec.le_toInt s.pc
  rw [BitVec.toInt_add, show (1#32).toInt = 1 from rfl]
  exact Int.bmod_eq_of_le (by omega) (by omega)

/-- After an advance by one the fetch reads the next cell of memory. -/
theorem fetch_after_advance_one {s : State} (next : s.InRange (s.pc.toInt + 1)) (size : s.size ≤ 2 ^ 31) (st : Option Status) :
    ((s.applyPc (.advance 1)).returning st).fetch = some (s.memRead (s.pc.toInt + 1).toNat) := by
  have pc : ((s.applyPc (.advance 1)).returning st).pc.toInt = s.pc.toInt + 1 := by
    simpa using next.toInt_pc_add_one size
  rw [fetch_of_inRange (by rw [pc]; exact next), pc]
  rfl

/-- Settles O33: the STORE writes the cell that the advanced PC then fetches from. -/
theorem storedInstructionRunsNext : Obligations.StoredInstructionRunsNext := by
  intro s w d x base i hfetch hdecode hea next size hi
  have hstep : step s = complete (.advance 1) (s.memWrite (s.pc.toInt + 1).toNat (s.reg d)) := by
    rw [step_of_fetch hfetch hdecode, exec_store_of_inRange (hea ▸ next), hea]
  have seen := fetch_after_advance_one (s := s.memWrite (s.pc.toInt + 1).toNat (s.reg d)) next size (some .ok)
  rw [State.memWrite_pc, State.memWrite_memRead, if_pos rfl] at seen
  exact ⟨_, hstep, seen, step_of_fetch seen hi⟩

end Sys2Proof.Machine
end

section
/-! The decoder and the encoder are inverse (spec/30_encoding.md R61 to R83). Both are taken apart by family: the word's
selector decides which family function decodes it, and the format of an instruction decides which fields its word holds. -/

namespace Sys2Proof

/-! ## The selector of a word (spec/30_encoding.md R61) -/

/-- The decoder of one family. -/
def Family.decode : Family → Word → Decoded
  | .x7 => decodeX7
  | .x6 => decodeX6
  | .x5 => decodeX5
  | .x4 => decodeX4
  | .x3 => decodeX3
  | .x2 => decodeX2
  | .x1 => decodeX1

/-- Word `w` selects opcode `op` of family `f`: the nibble holds `op`, it is not 0, and every bit above it is 0. -/
structure Selects (w : Word) (f : Family) (op : Nat) : Prop where
  selector : w.toNat / 2 ^ f.selectorLow = op
  pos : 0 < op
  lt : op < 16

theorem Selects.toNat_lt {w : Word} {f : Family} {op : Nat} (h : Selects w f op) : w.toNat < 2 ^ (f.selectorLow + 4) := by
  rw [pow_add, mul_comm]
  exact (Nat.div_lt_iff_lt_mul (Nat.two_pow_pos _)).1 (h.selector.trans_lt h.lt)

theorem Selects.field_eq {w : Word} {f : Family} {op : Nat} (h : Selects w f op) :
    field w (f.selectorLow + 3) f.selectorLow = op := by
  obtain ⟨selector, -, lt⟩ := h
  rw [field, selector, show f.selectorLow + 3 + 1 - f.selectorLow = 4 by omega]
  exact Nat.mod_eq_of_lt lt

theorem Selects.field_ne_zero {w : Word} {f : Family} {op : Nat} (h : Selects w f op) :
    field w (f.selectorLow + 3) f.selectorLow ≠ 0 :=
  h.field_eq.trans_ne h.pos.ne'

theorem Selects.decode_eq {w : Word} {f : Family} {op : Nat} (h : Selects w f op) : decode w = f.decode w := by
  have small := h.toNat_lt
  have nonzero := h.field_ne_zero
  cases f with
  | x7 => exact decode_of_x7 nonzero
  | x6 => exact decode_of_x6 small nonzero
  | x5 => exact decode_of_x5 small nonzero
  | x4 => exact decode_of_x4 small nonzero
  | x3 => exact decode_of_x3 small nonzero
  | x2 => exact decode_of_x2 small nonzero
  | x1 => exact decode_of_x1 small nonzero

theorem Selects.decode_x7 {w : Word} {op : Nat} (h : Selects w .x7 op) : decode w = decodeX7 w ∧ field w 31 28 = op :=
  ⟨h.decode_eq, h.field_eq⟩

theorem Selects.decode_x6 {w : Word} {op : Nat} (h : Selects w .x6 op) : decode w = decodeX6 w ∧ field w 27 24 = op :=
  ⟨h.decode_eq, h.field_eq⟩

theorem Selects.decode_x5 {w : Word} {op : Nat} (h : Selects w .x5 op) : decode w = decodeX5 w ∧ field w 23 20 = op :=
  ⟨h.decode_eq, h.field_eq⟩

theorem Selects.decode_x4 {w : Word} {op : Nat} (h : Selects w .x4 op) : decode w = decodeX4 w ∧ field w 19 16 = op :=
  ⟨h.decode_eq, h.field_eq⟩

theorem Selects.decode_x3 {w : Word} {op : Nat} (h : Selects w .x3 op) : decode w = decodeX3 w ∧ field w 15 12 = op :=
  ⟨h.decode_eq, h.field_eq⟩

theorem Selects.decode_x2 {w : Word} {op : Nat} (h : Selects w .x2 op) : decode w = decodeX2 w ∧ field w 11 8 = op :=
  ⟨h.decode_eq, h.field_eq⟩

theorem Selects.decode_x1 {w : Word} {op : Nat} (h : Selects w .x1 op) : decode w = decodeX1 w ∧ field w 7 4 = op :=
  ⟨h.decode_eq, h.field_eq⟩

theorem selects_of_bounds {w : Word} (f : Family) (low : 2 ^ f.selectorLow ≤ w.toNat)
    (high : w.toNat < 2 ^ (f.selectorLow + 4)) : Selects w f (w.toNat / 2 ^ f.selectorLow) where
  selector := rfl
  pos := Nat.div_pos low (Nat.two_pow_pos _)
  lt := Nat.div_lt_of_lt_mul (by rwa [pow_add] at high)

theorem decode_noFamily {w : Word} (nonzero : w ≠ 0#32) (small : w.toNat < 2 ^ 4) : decode w = .invalid .noFamily := by
  have above (hi lo : Nat) (h : 4 ≤ lo) : ¬ field w hi lo ≠ 0 := by
    simp [field, Nat.div_eq_of_lt (small.trans_le (Nat.pow_le_pow_right two_pos h))]
  simp [decode, nonzero, above]

/-- Every word is zero, selects one opcode of one family, or has no family (spec/30_encoding.md R61, R64). -/
inductive WordKind (w : Word) : Prop where
  | zero (toNat : w.toNat = 0) (decodes : decode w = .instr .halt)
  | family (f : Family) (op : Nat) (selects : Selects w f op)
  | noFamily (small : w.toNat < 2 ^ 4) (decodes : decode w = .invalid .noFamily)

theorem wordKind (w : Word) : WordKind w := by
  rcases le_or_gt (2 ^ 28) w.toNat with h28 | h28
  · exact .family _ _ (selects_of_bounds .x7 h28 w.isLt)
  rcases le_or_gt (2 ^ 24) w.toNat with h24 | h24
  · exact .family _ _ (selects_of_bounds .x6 h24 h28)
  rcases le_or_gt (2 ^ 20) w.toNat with h20 | h20
  · exact .family _ _ (selects_of_bounds .x5 h20 h24)
  rcases le_or_gt (2 ^ 16) w.toNat with h16 | h16
  · exact .family _ _ (selects_of_bounds .x4 h16 h20)
  rcases le_or_gt (2 ^ 12) w.toNat with h12 | h12
  · exact .family _ _ (selects_of_bounds .x3 h12 h16)
  rcases le_or_gt (2 ^ 8) w.toNat with h8 | h8
  · exact .family _ _ (selects_of_bounds .x2 h8 h12)
  rcases le_or_gt (2 ^ 4) w.toNat with h4 | h4
  · exact .family _ _ (selects_of_bounds .x1 h4 h8)
  rcases eq_or_ne w 0#32 with rfl | nonzero
  · exact .zero rfl rfl
  · exact .noFamily h4 (decode_noFamily nonzero h4)

/-! ## What the decoder accepts -/

theorem Selects.reads {w : Word} {f : Family} {op : Nat} {i : Instr} (h : Selects w f op)
    (decodes : f.decode w = .instr i) : ReadFrom w i := by
  have small := h.toNat_lt
  cases f with
  | x7 => exact decodeX7_reads w i decodes h.field_ne_zero
  | x6 => exact decodeX6_reads w i decodes small
  | x5 => exact decodeX5_reads w i decodes small
  | x4 => exact decodeX4_reads w i decodes small
  | x3 => exact decodeX3_reads w i decodes small
  | x2 => exact decodeX2_reads w i decodes small
  | x1 => exact decodeX1_reads w i decodes small

/-- Any instruction the decoder gives is a reading of the word. -/
theorem decode_reads {w : Word} {i : Instr} (h : decode w = .instr i) : ReadFrom w i := by
  cases wordKind w with
  | zero toNat decodes =>
    cases decodes.symm.trans h
    rw [(word_eq_zero_iff w).2 toNat]
    exact ⟨rfl, rfl, rfl⟩
  | family f op selects => exact selects.reads (selects.decode_eq.symm.trans h)
  | noFamily _ decodes => cases decodes.symm.trans h

/-- Settles O2: a reading's encoding as a number is the word's number. -/
theorem encodeOfDecodeGivesWord : Obligations.EncodeOfDecodeGivesWord := by
  intro w i h
  obtain ⟨wf, word, -⟩ := decode_reads h
  exact ⟨wf, by rw [encode, word, BitVec.ofNat_toNat, BitVec.setWidth_eq]⟩

/-! ## The rows of the opcode table (spec/30_encoding.md R82) -/

theorem field_top (w : Word) {lo : Nat} (h : lo ≤ 32) : field w 31 lo = w.toNat / 2 ^ lo :=
  Nat.mod_eq_of_lt (Nat.div_lt_of_lt_mul (by rw [← pow_add, Nat.add_sub_cancel' h]; exact w.isLt))

/-- A row of the table fixes the selector of its family; HALT's, which has no opcode, fixes the whole word. -/
theorem selects_of_row {w : Word} {i : Instr} {f : Family} {op : Nat} (hrow : i.row.matchesWord w = true)
    (hop : i.familyOpcode = some (f, op)) : Selects w f op := by
  have bound := w.isLt
  cases i <;> cases hop
  all_goals
    refine ⟨?_, by decide, by decide⟩
    simp only [Instr.row, Row.matchesWord, field, List.all_cons, List.all_nil, beq_iff_eq, Bool.and_eq_true, Bool.and_true] at hrow
    simp only [Family.selectorLow]
    omega

/-- Settles O4: the row of the instruction fixes its selector. -/
theorem selectorIsMostSignificantNonzeroNibble : Obligations.SelectorIsMostSignificantNonzeroNibble := by
  intro w i f op h hop
  obtain ⟨-, -, hrow⟩ := decode_reads h
  have selects := selects_of_row hrow hop
  exact ⟨selects.toNat_lt, selects.selector, selects.pos.ne'⟩

theorem Row.field_eq_of_matchesWord {w : Word} {hi lo v : Nat} {row : Row} (h : Row.matchesWord ((hi, lo, v) :: row) w = true) :
    field w hi lo = v := by
  rw [Row.matchesWord, List.all_cons, Bool.and_eq_true, beq_iff_eq] at h
  exact h.1

theorem ifZero_of_eq_zero {sbz : Nat} (h : sbz = 0) (i : Instr) : ifZero sbz i = .instr i := if_pos h

/-- The family functions take the instruction of the opcode the row fixes, and pass its should-be-zero check. -/
theorem decode_of_row {w : Word} {i : Instr} (hrow : i.row.matchesWord w = true) :
    ∃ j, decode w = .instr j ∧ j.row = i.row := by
  have selects (f : Family) (op : Nat) := selects_of_row (f := f) (op := op) hrow
  cases i with
  | halt =>
    have zero : w = 0#32 := (word_eq_zero_iff w).2 (by simpa [field_top] using Row.field_eq_of_matchesWord hrow)
    exact ⟨.halt, by rw [zero]; rfl, rfl⟩
  | load | store | addm | subm =>
    obtain ⟨family, op⟩ := (selects .x7 _ rfl).decode_x7
    simp [family, decodeX7, op, Instr.row]
  | jump | call =>
    obtain ⟨family, op⟩ := (selects .x7 _ rfl).decode_x7
    simp [family, decodeX7, op, ifZero_of_eq_zero (Row.field_eq_of_matchesWord hrow), Instr.row]
  | ldu | lds | addi | subi | ori | andi | xori =>
    obtain ⟨family, op⟩ := (selects .x6 _ rfl).decode_x6
    simp [family, decodeX6, op, Instr.row]
  | sll | srl | sla | sra | rol | ror =>
    obtain ⟨family, op⟩ := (selects .x5 _ rfl).decode_x5
    simp [family, decodeX5, op, ifZero_of_eq_zero (Row.field_eq_of_matchesWord hrow), Instr.row]
  | skov | sknov =>
    obtain ⟨family, op⟩ := (selects .x4 _ rfl).decode_x4
    simp [family, decodeX4, op, Instr.row]
  | mov | add | sub | or | and | xor | skgt | skge | skeq | skle | sklt =>
    obtain ⟨family, op⟩ := (selects .x4 _ rfl).decode_x4
    simp [family, decodeX4, op, ifZero_of_eq_zero (Row.field_eq_of_matchesWord hrow), Instr.row]
  | x3_1 | x3_2 | x3_3 | x3_4 | x3_5 | x3_6 | x3_7 | x3_8 | x3_9 | x3_10 | x3_11 | x3_12 | x3_13 | x3_14 | x3_15 =>
    obtain ⟨family, op⟩ := (selects .x3 _ rfl).decode_x3
    simp [family, decodeX3, op, Instr.row]
  | wch | rch | wrl =>
    obtain ⟨family, op⟩ := (selects .x2 _ rfl).decode_x2
    simp [family, decodeX2, op, ifZero_of_eq_zero (Row.field_eq_of_matchesWord hrow), Instr.row]
  | nop | ret =>
    obtain ⟨family, op⟩ := (selects .x1 _ rfl).decode_x1
    have sbz : field w 3 0 = 0 := by
      have whole : field w 31 0 = _ := Row.field_eq_of_matchesWord hrow
      rw [field_top w (by decide)] at whole
      simp only [field]
      omega
    simp [family, decodeX1, op, ifZero_of_eq_zero sbz, Instr.row]

/-- Settles O3: a decoded instruction is a reading of the word, and a row fixes what the decoder looks at. -/
theorem opcodeTableRowsDecideDecoding : Obligations.OpcodeTableRowsDecideDecoding := by
  intro w
  have row_of_decode (i : Instr) (h : decode w = .instr i) : i.row.matchesWord w = true := (decode_reads h).2.2
  refine ⟨row_of_decode, fun i hrow => decode_of_row hrow, fun noRow => ?_⟩
  cases h : decode w with
  | instr i => exact absurd (row_of_decode i h) (by simp [noRow i])
  | invalid why => exact ⟨why, rfl⟩

/-! ## Reading the fields of an encoded word back -/

theorem encodeNat_lt {i : Instr} (wf : i.WellFormed) : i.encodeNat < 2 ^ 32 := by
  cases i with
  | halt => exact Laws.EncodingFits.halt wf
  | load | store | addm | subm | jump | call => exact Laws.EncodingFits.encM_lt (by decide) (of_decide_eq_true wf)
  | ldu | lds | addi | subi | ori | andi | xori => exact Laws.EncodingFits.encI_lt (by decide)
  | sll | srl | sla | sra | rol | ror => exact Laws.EncodingFits.encS_lt (by decide) (of_decide_eq_true wf)
  | mov | add | sub | or | and | xor | skgt | skge | skeq | skle | sklt => exact Laws.EncodingFits.encR_lt (by decide)
  | skov | sknov => exact Laws.EncodingFits.encX4Reserved_lt (by decide)
  | x3_1 | x3_2 | x3_3 | x3_4 | x3_5 | x3_6 | x3_7 | x3_8 | x3_9 | x3_10 | x3_11 | x3_12 | x3_13 | x3_14 | x3_15 =>
    exact Laws.EncodingFits.encX3Reserved_lt (by decide)
  | wch | rch | wrl => exact Laws.EncodingFits.encIO_lt (by decide)
  | nop | ret => exact Laws.EncodingFits.encC_lt (by decide)

theorem toNat_encode {i : Instr} (wf : i.WellFormed) : (encode i).toNat = i.encodeNat :=
  BitVec.toNat_ofNat _ _ |>.trans (Nat.mod_eq_of_lt (encodeNat_lt wf))

section
variable {w : Word} {op base n : Nat} {x d r : Reg}

theorem fields_of_encM (h : w.toNat = encM op x d base) (fits : baseFits base) :
    w.toNat / 2 ^ 28 = op ∧ regField w 24 = x ∧ regField w 20 = d ∧ field w 23 20 = d ∧ field w 19 0 = base := by
  simp only [encM, baseFits, regField, field, Fin.ext_iff] at *
  omega

theorem fields_of_encI {imm : BitVec 20} (h : w.toNat = encI op d imm) :
    w.toNat / 2 ^ 24 = op ∧ regField w 20 = d ∧ w.setWidth 20 = imm := by
  simp only [encI, regField, Fin.ext_iff, BitVec.toNat_eq, BitVec.toNat_setWidth] at *
  omega

theorem fields_of_encS (h : w.toNat = encS op d n) (fits : countFits n) :
    w.toNat / 2 ^ 20 = op ∧ regField w 16 = d ∧ field w 15 11 = n ∧ field w 10 0 = 0 := by
  simp only [encS, countFits, regField, field, Fin.ext_iff] at *
  omega

theorem fields_of_encR (h : w.toNat = encR op d r) :
    w.toNat / 2 ^ 16 = op ∧ regField w 12 = d ∧ regField w 8 = r ∧ field w 7 0 = 0 := by
  simp only [encR, regField, field, Fin.ext_iff] at *
  omega

theorem fields_of_encX4Reserved {ignored : BitVec 16} (h : w.toNat = encX4Reserved op ignored) :
    w.toNat / 2 ^ 16 = op ∧ w.setWidth 16 = ignored := by
  simp only [encX4Reserved, BitVec.toNat_eq, BitVec.toNat_setWidth] at *
  omega

theorem fields_of_encX3Reserved {ignored : BitVec 12} (h : w.toNat = encX3Reserved op ignored) :
    w.toNat / 2 ^ 12 = op ∧ w.setWidth 12 = ignored := by
  simp only [encX3Reserved, BitVec.toNat_eq, BitVec.toNat_setWidth] at *
  omega

theorem fields_of_encIO (h : w.toNat = encIO op r) :
    w.toNat / 2 ^ 8 = op ∧ regField w 4 = r ∧ field w 3 0 = 0 := by
  simp only [encIO, regField, field, Fin.ext_iff] at *
  omega

theorem fields_of_encC (h : w.toNat = encC op) : w.toNat / 2 ^ 4 = op ∧ field w 3 0 = 0 := by
  simp only [encC, field] at *
  omega

end

/-- Each format's fields, read back, are the operands they were written from. -/
theorem decode_of_toNat {w : Word} {i : Instr} (wf : i.WellFormed) (word : w.toNat = i.encodeNat) : decode w = .instr i := by
  cases i with
  | halt => rw [(word_eq_zero_iff w).2 word]; rfl
  | load | store | addm | subm =>
    obtain ⟨selector, x, d, -, base⟩ := fields_of_encM word (of_decide_eq_true wf)
    obtain ⟨family, op⟩ := Selects.decode_x7 ⟨selector, by decide, by decide⟩
    simp [family, decodeX7, op, x, d, base]
  | jump | call =>
    obtain ⟨selector, x, -, sbz, base⟩ := fields_of_encM word (of_decide_eq_true wf)
    obtain ⟨family, op⟩ := Selects.decode_x7 ⟨selector, by decide, by decide⟩
    simp [family, decodeX7, op, x, base, ifZero_of_eq_zero sbz]
  | ldu | lds | addi | subi | ori | andi | xori =>
    obtain ⟨selector, d, imm⟩ := fields_of_encI word
    obtain ⟨family, op⟩ := Selects.decode_x6 ⟨selector, by decide, by decide⟩
    simp [family, decodeX6, op, d, imm]
  | sll | srl | sla | sra | rol | ror =>
    obtain ⟨selector, d, n, sbz⟩ := fields_of_encS word (of_decide_eq_true wf)
    obtain ⟨family, op⟩ := Selects.decode_x5 ⟨selector, by decide, by decide⟩
    simp [family, decodeX5, op, d, n, ifZero_of_eq_zero sbz]
  | mov | add | sub | or | and | xor | skgt | skge | skeq | skle | sklt =>
    obtain ⟨selector, d, r, sbz⟩ := fields_of_encR word
    obtain ⟨family, op⟩ := Selects.decode_x4 ⟨selector, by decide, by decide⟩
    simp [family, decodeX4, op, d, r, ifZero_of_eq_zero sbz]
  | skov | sknov =>
    obtain ⟨selector, ignored⟩ := fields_of_encX4Reserved word
    obtain ⟨family, op⟩ := Selects.decode_x4 ⟨selector, by decide, by decide⟩
    simp [family, decodeX4, op, ignored]
  | x3_1 | x3_2 | x3_3 | x3_4 | x3_5 | x3_6 | x3_7 | x3_8 | x3_9 | x3_10 | x3_11 | x3_12 | x3_13 | x3_14 | x3_15 =>
    obtain ⟨selector, ignored⟩ := fields_of_encX3Reserved word
    obtain ⟨family, op⟩ := Selects.decode_x3 ⟨selector, by decide, by decide⟩
    simp [family, decodeX3, op, ignored]
  | wch | rch | wrl =>
    obtain ⟨selector, r, sbz⟩ := fields_of_encIO word
    obtain ⟨family, op⟩ := Selects.decode_x2 ⟨selector, by decide, by decide⟩
    simp [family, decodeX2, op, r, ifZero_of_eq_zero sbz]
  | nop | ret =>
    obtain ⟨selector, sbz⟩ := fields_of_encC word
    obtain ⟨family, op⟩ := Selects.decode_x1 ⟨selector, by decide, by decide⟩
    simp [family, decodeX1, op, ifZero_of_eq_zero sbz]

/-- Settles O1: the encoding fits one word, and the decoder reads its fields back. -/
theorem decodeOfEncodeGivesInstruction : Obligations.DecodeOfEncodeGivesInstruction :=
  fun _ wf => decode_of_toNat wf (toNat_encode wf)

/-! ## The undefined opcodes (spec/30_encoding.md R78) -/

/-- The last opcode a family defines; it defines every opcode from 1 to there. -/
def Family.lastOpcode : Family → Nat
  | .x7 => 6
  | .x6 => 7
  | .x5 => 6
  | .x4 => 13
  | .x3 => 15
  | .x2 => 3
  | .x1 => 2

theorem ifZero_ne_undefinedOpcode (sbz : Nat) (i : Instr) : ifZero sbz i ≠ .invalid .undefinedOpcode := by
  unfold ifZero
  split <;> simp

/-- Each opcode a nibble can hold, run through its family function. -/
theorem Selects.decode_undefinedOpcode_iff {w : Word} {f : Family} {op : Nat} (h : Selects w f op) :
    decode w = .invalid .undefinedOpcode ↔ f.lastOpcode < op := by
  have pos := h.pos
  have lt := h.lt
  cases f with
  | x7 =>
    obtain ⟨family, selector⟩ := h.decode_x7
    interval_cases op <;> simp [family, decodeX7, selector, Family.lastOpcode, ifZero_ne_undefinedOpcode]
  | x6 =>
    obtain ⟨family, selector⟩ := h.decode_x6
    interval_cases op <;> simp [family, decodeX6, selector, Family.lastOpcode]
  | x5 =>
    obtain ⟨family, selector⟩ := h.decode_x5
    interval_cases op <;> simp [family, decodeX5, selector, Family.lastOpcode, ifZero_ne_undefinedOpcode]
  | x4 =>
    obtain ⟨family, selector⟩ := h.decode_x4
    interval_cases op <;> simp [family, decodeX4, selector, Family.lastOpcode, ifZero_ne_undefinedOpcode]
  | x3 =>
    obtain ⟨family, selector⟩ := h.decode_x3
    interval_cases op <;> simp [family, decodeX3, selector, Family.lastOpcode]
  | x2 =>
    obtain ⟨family, selector⟩ := h.decode_x2
    interval_cases op <;> simp [family, decodeX2, selector, Family.lastOpcode, ifZero_ne_undefinedOpcode]
  | x1 =>
    obtain ⟨family, selector⟩ := h.decode_x1
    interval_cases op <;> simp [family, decodeX1, selector, Family.lastOpcode, ifZero_ne_undefinedOpcode]

/-- Settles O6: a family rejects exactly the opcodes past its last one, and X3's last is 15. -/
theorem undefinedOpcodesAreExactlyTheTables : Obligations.UndefinedOpcodesAreExactlyTheTables := by
  intro w
  have bound := w.isLt
  cases wordKind w with
  | zero toNat decodes => simp [decodes, toNat]
  | noFamily small decodes =>
    simp only [decodes, Decoded.invalid.injEq, reduceCtorEq, false_iff]
    omega
  | family f op selects =>
    rw [selects.decode_undefinedOpcode_iff]
    obtain ⟨selector, pos, lt⟩ := selects
    cases f <;> simp only [Family.selectorLow, Family.lastOpcode] at * <;> omega

end Sys2Proof
end

section
/-! The X7 family (spec/41_memref_x7.md): what LOAD, JUMP and CALL complete with when their addresses are in memory. The jump
to itself, and CALL followed by RET, are put together from these. -/

namespace Sys2Proof.Machine

theorem State.InRange.ofNat_toNat {s : State} {a : Int} (h : s.InRange a) : BitVec.ofNat 32 a.toNat = BitVec.ofInt 32 a := by
  rw [← BitVec.ofInt_natCast, Int.toNat_of_nonneg h.1]

@[simp] theorem State.setReg_eq_self (s : State) (r : Reg) : s.setReg r (s.reg r) = s := by
  simp [State.setReg, State.reg]

/-- Every X7 instruction checks its effective address before anything else (spec/48_execution_driver.md R245). -/
theorem exec_of_effAddr_not_inRange {i : Instr} {s : State} {x : Reg} {base : Nat} (operand : memOperand i = some (x, base))
    (h : ¬ s.InRange (s.effAddr x base)) : exec i s = .fault .outOfRange := by
  cases i with
  | load | store | addm | subm | jump | call => cases operand; exact if_neg h
  | _ => cases operand

/-! ## LOAD -/

theorem exec_load_of_inRange {s : State} {x : Reg} {base : Nat} (h : s.InRange (s.effAddr x base)) (d : Reg) :
    exec (.load d x base) s = writeAndAdvance d (s.memRead (s.effAddr x base).toNat) s :=
  withCell_of_inRange h fun ea => writeAndAdvance d (s.memRead ea) s

/-- Settles O26: the word is the encoding of the instruction, and the cell at EA is the word written. -/
theorem loadWritesMemoryWord : Obligations.LoadWritesMemoryWord := by
  intro s d x base
  refine ⟨fun fits => decodeOfEncodeGivesInstruction (.load d x base) (decide_eq_true fits), ?_⟩
  intro ea
  split
  case isTrue inRange => exact exec_load_of_inRange inRange d ▸ writeAndAdvance_wrote d _ s
  case isFalse outOfRange => exact exec_of_effAddr_not_inRange rfl outOfRange

/-! ## JUMP -/

theorem exec_jump_of_inRange {s : State} {x : Reg} {base : Nat} (h : s.InRange (s.effAddr x base)) :
    exec (.jump x base) s = complete .transfer (s.setReg pcReg (BitVec.ofInt 32 (s.effAddr x base))) := by
  rw [← h.ofNat_toNat]
  exact withCell_of_inRange h fun ea => complete .transfer (s.setReg pcReg (BitVec.ofNat 32 ea))

/-- Settles O29: a checked jump writes register 15 and nothing else. -/
theorem jumpSetsPc : Obligations.JumpSetsPc := by
  intro s x base
  split
  case isTrue inRange =>
    refine ⟨_, exec_jump_of_inRange inRange, by simp, fun k hk => ?_, fun a => by simp, ⟨rfl, rfl, rfl⟩, rfl⟩
    have notPc : k ≠ pcReg := by simpa using hk
    simp [notPc]
  case isFalse outOfRange => exact exec_of_effAddr_not_inRange rfl outOfRange

/-- `JUMP 0(R15)` writes the PC back to itself (spec/93_implementation_defined.md K20). -/
theorem step_jump_to_self {s : State} (h : s.fetch = some 0x5F000000#32) : step s = .next (s.returning (some .ok)) := by
  have decodes : decode 0x5F000000#32 = .instr (.jump pcReg 0) := by decide
  have target : s.effAddr pcReg 0 = s.pc.toInt := by simp [State.effAddr, State.reg_pcReg, show pcReg ≠ 0 by decide]
  obtain ⟨inRange, -⟩ := fetch_eq_some h
  rw [step_of_fetch h decodes, exec_jump_of_inRange (by rwa [target]), target, BitVec.ofInt_toInt, ← State.reg_pcReg,
    State.setReg_eq_self]
  rfl

/-- Settles O32: the step only records its status, so it fetches the same word and gives the same state again. -/
theorem jumpToSelfRepeats : Obligations.JumpToSelfRepeats := fun _ h =>
  ⟨_, step_jump_to_self h, ⟨fun _ _ => rfl, fun _ => rfl, rfl, rfl, rfl⟩, rfl, step_jump_to_self h⟩

/-! ## CALL and RET -/

/-- The state CALL leaves before its status: PC pushed, SP dropped, PC at the target (spec/41_memref_x7.md R106). -/
def State.called (s : State) (target : Int) : State :=
  ((s.memWrite s.pushSlot.toNat s.pc).setReg spReg (s.sp - 1#32)).setReg pcReg (BitVec.ofInt 32 target)

theorem State.called_memRead_slot (s : State) (target : Int) : (s.called target).memRead s.pushSlot.toNat = s.pc := by
  simp [State.called]

theorem State.called_memRead_ne (s : State) (target : Int) {a : Nat} (h : a ≠ s.pushSlot.toNat) :
    (s.called target).memRead a = s.memRead a := by
  simp [State.called, h]

theorem State.called_sp (s : State) (target : Int) : (s.called target).sp = s.sp - 1#32 := by
  simp [State.called]

theorem State.called_pc (s : State) (target : Int) : (s.called target).pc = BitVec.ofInt 32 target := by
  simp [State.called]

theorem State.called_reg_ne (s : State) (target : Int) {k : Reg} (notSp : k ≠ spReg) (notPc : k ≠ pcReg) :
    (s.called target).reg k = s.reg k := by
  simp [State.called, notSp, notPc]

/-- CALL once its effective address is in memory: the slot is checked next. -/
theorem exec_call_of_target_inRange {s : State} {x : Reg} {base : Nat} (target : s.InRange (s.effAddr x base)) :
    exec (.call x base) s = withCell s s.pushSlot fun _ => complete .transfer (s.called (s.effAddr x base)) := by
  simp only [exec, execCall, withCell_of_inRange target, target.ofNat_toNat]
  rfl

/-- Settles O30: the two checks, and the fields of the state CALL leaves. -/
theorem callPushesOwnAddress : Obligations.CallPushesOwnAddress := by
  intro s x base
  by_cases target : s.InRange (s.effAddr x base)
  case neg => rw [if_neg fun h => target h.1]; exact exec_of_effAddr_not_inRange rfl target
  rw [exec_call_of_target_inRange target]
  by_cases slot : s.InRange s.pushSlot
  case neg => rw [if_neg fun h => slot h.2]; exact withCell_of_not_inRange slot _
  rw [if_pos ⟨target, slot⟩, withCell_of_inRange slot]
  generalize s.effAddr x base = ea
  refine ⟨_, rfl, s.called_memRead_slot ea, fun a other => s.called_memRead_ne ea other, s.called_sp ea, s.called_pc ea,
    fun k hk => ?_, ⟨rfl, rfl, rfl⟩, rfl⟩
  obtain ⟨notSp, notPc⟩ : k ≠ spReg ∧ k ≠ pcReg := by simpa using hk
  exact s.called_reg_ne ea notSp notPc

/-- RET from a slot in memory completes with the popped word as PC, then advanced (spec/47_misc_x1.md R221). -/
theorem exec_ret_of_inRange {s : State} (h : s.InRange s.popSlot) :
    exec .ret s = complete (.advance 1) ((s.setReg pcReg (s.memRead s.popSlot.toNat)).setReg spReg (s.sp + 1#32)) :=
  withCell_of_inRange h fun slot => complete (.advance 1) ((s.setReg pcReg (s.memRead slot)).setReg spReg (s.sp + 1#32))

/-- An SP whose push slot is an address drops by one without wrapping. -/
theorem State.InRange.toInt_sp_sub_one {s : State} (slot : s.InRange s.pushSlot) : (s.sp - 1#32).toInt = s.pushSlot := by
  have low : 0 ≤ s.sp.toInt - 1 := slot.1
  have high : s.sp.toInt < 2 ^ 31 := BitVec.toInt_lt
  rw [BitVec.toInt_sub, show (1#32).toInt = 1 from rfl]
  exact Int.bmod_eq_of_le (by omega) (by omega)

/-- Settles O31: the slot RET pops from is the one CALL pushed to, since SP drops without wrapping. -/
theorem callThenRetResumesAfterCall : Obligations.CallThenRetResumesAfterCall := by
  intro s t x base w hfetch hdecode hcall hret
  rw [step_of_fetch hfetch hdecode] at hcall
  have spec := callPushesOwnAddress s x base
  split at spec
  case isFalse => cases hcall.symm.trans spec
  case isTrue inRange =>
    obtain ⟨t', hcall', pushed, -, sp, -, regs, ⟨-, -, size⟩, -⟩ := spec
    cases hcall.symm.trans hcall'
    change t.memRead s.pushSlot.toNat = s.pc at pushed
    have slot : t.popSlot = s.pushSlot := (congrArg BitVec.toInt sp).trans inRange.2.toInt_sp_sub_one
    have slotInRange : t.InRange t.popSlot := by rw [slot, State.InRange, size]; exact inRange.2
    refine ⟨_, (step_of_fetch hret rfl).trans (exec_ret_of_inRange slotInRange), ?_, fun k hk => ?_, ?_⟩
    · simp [slot, pushed]
    · have notPc : k ≠ pcReg := by simpa using hk
      by_cases isSp : k = spReg
      · simp [isSp, sp, State.reg_spReg]
      · simp [notPc, isSp, regs k (by simp [notPc, isSp])]
    · exact (State.applyPc_memRead _ _ _).trans pushed

end Sys2Proof.Machine
end

section
/-! The X6 family (spec/42_immediate_x6.md): what LDU, LDS, ANDI and XORI write. Each word is the encoding of its instruction,
and each result is one register write, so the statements are put together from the round trip and the frame of a write. -/

namespace Sys2Proof.Machine

/-- An instruction whose meaning is to write register `d` and advance has the frame of a register write. -/
theorem exec_wrote {i : Instr} {d : Reg} {v : Word} {s : State} (h : exec i s = writeAndAdvance d v s) :
    ∃ t, exec i s = .next t ∧ WroteRegister d v s t := by
  rw [h]
  exact writeAndAdvance_wrote d v s

theorem exec_ldu (d : Reg) (imm : BitVec 20) (s : State) :
    exec (.ldu d imm) s = writeAndAdvance d (imm.setWidth 32) s := rfl

theorem exec_lds (d : Reg) (imm : BitVec 20) (s : State) :
    exec (.lds d imm) s = writeAndAdvance d (imm.signExtend 32) s := rfl

theorem exec_andi (d : Reg) (imm : BitVec 20) (s : State) :
    exec (.andi d imm) s = writeAndAdvance d (s.reg d &&& imm.signExtend 32) s := rfl

theorem exec_xori (d : Reg) (imm : BitVec 20) (s : State) :
    exec (.xori d imm) s = writeAndAdvance d (s.reg d ^^^ imm.signExtend 32) s := rfl

/-- Settles O34: LDU and LDS write the extended immediate whatever register `d` held. -/
theorem loadImmediatesExtend : Obligations.LoadImmediatesExtend := fun s d imm =>
  ⟨decodeOfEncodeGivesInstruction (.ldu d imm) rfl, exec_wrote (exec_ldu d imm s),
    decodeOfEncodeGivesInstruction (.lds d imm) rfl, exec_wrote (exec_lds d imm s)⟩

/-- Settles O37: ANDI and XORI combine register `d` with the sign-extended immediate. -/
theorem andiXoriResults : Obligations.AndiXoriResults := fun s d imm =>
  ⟨decodeOfEncodeGivesInstruction (.andi d imm) rfl, exec_wrote (exec_andi d imm s),
    decodeOfEncodeGivesInstruction (.xori d imm) rfl, exec_wrote (exec_xori d imm s)⟩

end Sys2Proof.Machine
end

section
/-! The X5 family (spec/43_shift_x5.md R140): each shift writes register `d`, iterated through its one-bit step, in the frame
of a register write. That ROR undoes ROL is the same fact of their one-bit steps, carried through the iterations. -/

namespace Sys2Proof.Machine

/-! ## The six shifts -/

theorem exec_sll (d : Reg) (n : Nat) (s : State) :
    exec (.sll d n) s = writeAndAdvance d (repeatStep stepSll n (s.reg d)) s := rfl

theorem exec_srl (d : Reg) (n : Nat) (s : State) :
    exec (.srl d n) s = writeAndAdvance d (repeatStep stepSrl n (s.reg d)) s := rfl

theorem exec_sla (d : Reg) (n : Nat) (s : State) :
    exec (.sla d n) s = writeAndAdvance d (repeatStep stepSla n (s.reg d)) s := rfl

theorem exec_sra (d : Reg) (n : Nat) (s : State) :
    exec (.sra d n) s = writeAndAdvance d (repeatStep stepSra n (s.reg d)) s := rfl

theorem exec_rol (d : Reg) (n : Nat) (s : State) :
    exec (.rol d n) s = writeAndAdvance d (repeatStep stepRol n (s.reg d)) s := rfl

theorem exec_ror (d : Reg) (n : Nat) (s : State) :
    exec (.ror d n) s = writeAndAdvance d (repeatStep stepRor n (s.reg d)) s := rfl

/-- Rule R140: a shift writes the n-fold iterate of its one-bit step. -/
theorem exec_wrote_iterate {i : Instr} {d : Reg} {f : Word → Word} {n : Nat} {s : State}
    (h : exec i s = writeAndAdvance d (repeatStep f n (s.reg d)) s) :
    ∃ t, exec i s = .next t ∧ WroteRegister d (f^[n] (s.reg d)) s t := by
  rw [repeatStep_eq_iterate] at h
  exact exec_wrote h

/-- Settles O40: each word is the encoding of its shift, and each result is its rule R140. -/
theorem shiftsIterateOneBitSteps : Obligations.ShiftsIterateOneBitSteps := fun s d n =>
  ⟨fun fits => decodeOfEncodeGivesInstruction (.sll d n) (decide_eq_true fits), exec_wrote_iterate (exec_sll d n s),
    fun fits => decodeOfEncodeGivesInstruction (.srl d n) (decide_eq_true fits), exec_wrote_iterate (exec_srl d n s),
    fun fits => decodeOfEncodeGivesInstruction (.sra d n) (decide_eq_true fits), exec_wrote_iterate (exec_sra d n s)⟩

/-- Settles O41: each result is rule R140 at the shift's one-bit step. -/
theorem slaAndRotatesIterateOneBitSteps : Obligations.SlaAndRotatesIterateOneBitSteps := fun s d n =>
  ⟨exec_wrote_iterate (exec_sla d n s), exec_wrote_iterate (exec_rol d n s), exec_wrote_iterate (exec_ror d n s)⟩

/-! ## ROL, then ROR (spec/43_shift_x5.md R145) -/

/-- A register other than the PC holds the word written to it, and the PC has advanced by one. -/
theorem WroteRegister.reg_and_pc {d : Reg} {v : Word} {s t : State} (h : WroteRegister d v s t) (notPc : d ≠ pcReg) :
    t.reg d = v ∧ t.pc = s.pc + 1#32 := by
  obtain ⟨written, -⟩ := h
  rwa [if_neg notPc] at written

theorem stepRor_append (rest : BitVec 31) (top : BitVec 1) : stepRor (rest ++ top) = top ++ rest := by
  rw [stepRor, BitVec.extractLsb'_append_eq_right, BitVec.extractLsb'_append_eq_left]

/-- The bit that went from bit 31 to bit 0 goes back, and the 31 others with it. -/
theorem stepRor_leftInverse_stepRol : Function.LeftInverse stepRor stepRol := fun v =>
  calc stepRor (stepRol v)
    _ = v.extractLsb' 31 1 ++ v.extractLsb' 0 31 := stepRor_append _ _
    _ = v := BitVec.extractLsb'_append_extractLsb'

/-- Two writes of one register other than the PC, the second of what it held before the first, only advance the PC by 2. -/
theorem WroteRegister.restore {d : Reg} {v : Word} {s t u : State} (notPc : d ≠ pcReg)
    (first : WroteRegister d v s t) (second : WroteRegister d (s.reg d) t u) :
    SameRegsBut [pcReg] s u ∧ SameMemory s u ∧ SameHostSide s u ∧ u.pc = s.pc + 2#32 := by
  obtain ⟨-, pc₁⟩ := first.reg_and_pc notPc
  obtain ⟨restored, pc₂⟩ := second.reg_and_pc notPc
  obtain ⟨-, regs₁, mem₁, ⟨out₁, inp₁, size₁⟩, -⟩ := first
  obtain ⟨-, regs₂, mem₂, ⟨out₂, inp₂, size₂⟩, -⟩ := second
  refine ⟨fun k hk => ?_, fun a => (mem₂ a).trans (mem₁ a), ⟨out₂.trans out₁, inp₂.trans inp₁, size₂.trans size₁⟩, ?_⟩
  · by_cases written : k = d
    · rw [written, restored]
    · have kept : k ∉ [d, pcReg] := List.not_mem_cons_of_ne_of_not_mem written hk
      exact (regs₂ k kept).trans (regs₁ k kept)
  · rw [pc₂, pc₁, BitVec.add_assoc]
    rfl

/-- Settles O43: ROR writes back what register `d` held, since its one-bit step undoes that of ROL. -/
theorem rotateLeftThenRightIsIdentity : Obligations.RotateLeftThenRightIsIdentity := by
  intro s d k _ notPc
  obtain ⟨t, hrol, rolled⟩ := exec_wrote_iterate (exec_rol d k s)
  obtain ⟨u, hror, back⟩ := exec_wrote_iterate (exec_ror d k t)
  obtain ⟨held, -⟩ := rolled.reg_and_pc notPc
  rw [held, stepRor_leftInverse_stepRol.iterate k] at back
  exact ⟨t, u, hrol, hror, rolled.restore notPc back⟩

end Sys2Proof.Machine
end

section
/-! The X4 family (spec/44_regreg_x4.md): what MOV, OR, AND and XOR write, how far a conditional skip advances, and the stop
of the reserved words, X3 included. -/

namespace Sys2Proof.Machine

/-! ## The copy and the logical operations -/

theorem exec_mov (d r : Reg) (s : State) : exec (.mov d r) s = writeAndAdvance d (s.reg r) s := rfl

theorem exec_or (d r : Reg) (s : State) : exec (.or d r) s = writeAndAdvance d (s.reg d ||| s.reg r) s := rfl

theorem exec_and (d r : Reg) (s : State) : exec (.and d r) s = writeAndAdvance d (s.reg d &&& s.reg r) s := rfl

theorem exec_xor (d r : Reg) (s : State) : exec (.xor d r) s = writeAndAdvance d (s.reg d ^^^ s.reg r) s := rfl

/-- Settles O44: each word is the encoding of its instruction, and each result is one register write. -/
theorem moveAndLogicResults : Obligations.MoveAndLogicResults := fun s d r =>
  ⟨decodeOfEncodeGivesInstruction (.mov d r) rfl, exec_wrote (exec_mov d r s),
    decodeOfEncodeGivesInstruction (.or d r) rfl, exec_wrote (exec_or d r s),
    decodeOfEncodeGivesInstruction (.and d r) rfl, exec_wrote (exec_and d r s),
    decodeOfEncodeGivesInstruction (.xor d r) rfl, exec_wrote (exec_xor d r s)⟩

/-! ## The skips (spec/44_regreg_x4.md R173) -/

/-- An instruction whose meaning is to skip if `p` holds advances by 2 if it does, else by 1, and changes nothing else. -/
theorem exec_advanced_of_skip {i : Instr} {s : State} {p : Prop} [Decidable p] (h : exec i s = skipIf (decide p) s) :
    ∃ t, exec i s = .next t ∧ Advanced (if p then 2 else 1) s t := by
  rw [h, skipIf]
  simp only [decide_eq_true_eq]
  exact complete_advanced _ s

theorem exec_skeq (d r : Reg) (s : State) : exec (.skeq d r) s = skipIf (decide (s.reg r = s.reg d)) s := rfl

/-- Settles O46: the word is the encoding of SKEQ, whose condition is that the two registers are equal. -/
theorem skipEqualAdvancesByTwo : Obligations.SkipEqualAdvancesByTwo := fun s d r =>
  ⟨decodeOfEncodeGivesInstruction (.skeq d r) rfl, exec_advanced_of_skip (exec_skeq d r s)⟩

/-! ## The reserved instructions (spec/44_regreg_x4.md R172; spec/45_single_x3.md R190) -/

/-- A reserved instruction reads nothing of the state and nothing of the bits it carries. -/
theorem exec_of_isReserved {i : Instr} (reserved : isReserved i = true) (s : State) : exec i s = .fault .notImplemented := by
  cases i with
  | skov | sknov => rfl
  | x3_1 | x3_2 | x3_3 | x3_4 | x3_5 | x3_6 | x3_7 | x3_8 | x3_9 | x3_10 | x3_11 | x3_12 | x3_13 | x3_14 | x3_15 => rfl
  | _ => cases reserved

/-- Settles O49: each of the seventeen instructions is reserved. -/
theorem reservedInstructionsReturnNotImplemented : Obligations.ReservedInstructionsReturnNotImplemented := by
  intro s a b
  and_intros <;> exact exec_of_isReserved rfl s

end Sys2Proof.Machine
end

section
/-! The X2 family (spec/46_io_x2.md): what WCH and WRL emit, and RCH with a character waiting and with none. -/

namespace Sys2Proof.Machine

/-! ## The low byte of a word -/

theorem lowByte_eq_ofNat (v : Word) : lowByte v = BitVec.ofNat 8 v.toNat := rfl

/-- The upper 24 bits and the new byte do not overlap, so the word is their sum. -/
theorem withLowByte_eq_ofNat (v : Word) (c : Byte) :
    withLowByte v c = BitVec.ofNat 32 (v.toNat / 2 ^ 8 * 2 ^ 8 + c.toNat) := by
  apply BitVec.eq_of_toNat_eq
  have upper : v.toNat / 2 ^ 8 < 2 ^ 24 := Nat.div_lt_of_lt_mul v.isLt
  have byte := c.isLt
  rw [withLowByte, BitVec.toNat_append, ← Nat.shiftLeft_add_eq_or_of_lt byte, BitVec.extractLsb'_toNat, BitVec.toNat_ofNat,
    Nat.shiftRight_eq_div_pow, Nat.shiftLeft_eq]
  omega

/-! ## WCH and WRL -/

theorem exec_wch (r : Reg) (s : State) :
    exec (.wch r) s = complete (.advance 1) (s.emit (.char (lowByte (s.reg r)))) := rfl

theorem exec_wrl (r : Reg) (s : State) : exec (.wrl r) s = complete (.advance 1) (s.emit (.regLine r s.regs)) := rfl

/-- An emitting step is an advance from the state that has emitted. -/
theorem complete_emit (e : OutEvent) (s : State) :
    ∃ t, complete (.advance 1) (s.emit e) = .next t ∧ t.out = s.out ++ [e] ∧ t.pc = s.pc + 1#32 ∧ SameRegsBut [pcReg] s t ∧
      SameMemory s t ∧ t.inp = s.inp ∧ t.size = s.size ∧ t.status = some .ok := by
  obtain ⟨t, ht, pc, regs, mem, ⟨out, inp, size⟩, status⟩ := complete_advanced 1 (s.emit e)
  exact ⟨t, ht, out, pc, regs, mem, inp, size, status⟩

/-- Settles O50: each instruction emits its own event. -/
theorem writeInstructionsEmitOneEvent : Obligations.WriteInstructionsEmitOneEvent := by
  intro s r
  rw [exec_wch, exec_wrl, lowByte_eq_ofNat]
  obtain ⟨t, ht, out, frame⟩ := complete_emit (.regLine r s.regs) s
  exact ⟨complete_emit _ s, t, s.regs, ht, out, fun _ => rfl, frame⟩

/-! ## RCH -/

theorem exec_rch_of_inp_nil {s : State} (h : s.inp = []) (r : Reg) : exec (.rch r) s = .next (s.returning none) := by
  simp only [exec, execRch, State.receive, h]
  rfl

theorem exec_rch_of_inp_cons {s : State} {c : Byte} {rest : List Byte} (h : s.inp = c :: rest) (r : Reg) :
    exec (.rch r) s = writeAndAdvance r (withLowByte (s.reg r) c) { s with inp := rest } := by
  simp only [exec, execRch, State.receive, h]

/-- Settles O51: a register write from the state that has received the character. -/
theorem readCharTakesOldestCharacter : Obligations.ReadCharTakesOldestCharacter := by
  intro s r c rest h
  obtain ⟨t, ht, written, regs, mem, ⟨out, inp, size⟩, status⟩ :=
    writeAndAdvance_wrote r (withLowByte (s.reg r) c) { s with inp := rest }
  rw [withLowByte_eq_ofNat] at written
  exact ⟨t, (exec_rch_of_inp_cons h r).trans ht, inp, out, size, mem, regs, status, written⟩

/-- Settles O52: waiting only records that nothing is returned, and a supplied character is the oldest and the only one. -/
theorem readCharWaitsForInput : Obligations.ReadCharWaitsForInput := by
  intro s w r hfetch hdecode empty
  have waits : step s = .next (s.returning none) := (step_of_fetch hfetch hdecode).trans (exec_rch_of_inp_nil empty r)
  have fetches : (s.returning none).fetch = some w := hfetch
  refine ⟨_, waits, rfl, ⟨fun _ _ => rfl, fun _ => rfl, rfl, rfl, rfl⟩,
    (step_of_fetch fetches hdecode).trans (exec_rch_of_inp_nil (s := s.returning none) empty r), ?_, fun c => ?_⟩
  · simp [hostStep, waits]
  · have supplied : (supplyChar c (s.returning none)).inp = [c] := by simp [supplyChar, empty]
    have fetchesSupplied : (supplyChar c (s.returning none)).fetch = some w := hfetch
    obtain ⟨u, hu, inp, -, -, -, -, status, -⟩ := readCharTakesOldestCharacter _ r c [] supplied
    exact ⟨u, (step_of_fetch fetchesSupplied hdecode).trans hu, status, inp⟩

end Sys2Proof.Machine
end

section
/-! The frame of registers over all instructions (spec/48_execution_driver.md R243, R244): what a handler writes
before the PC action, and that completing the step adds register 15 to it. -/

namespace Sys2Proof.Machine

theorem SameRegsBut.of_regs_eq {s t : State} (h : t.regs = s.regs) (ds : List Reg) : SameRegsBut ds s t := fun k _ =>
  congrArg (·[k]) h

/-- A write to a register of the list changes no register outside it. -/
theorem SameRegsBut.setReg {ds : List Reg} {s t : State} (h : SameRegsBut ds s t) {r : Reg} (written : r ∈ ds) (v : Word) :
    SameRegsBut ds s (t.setReg r v) := fun k hk =>
  (t.setReg_reg_ne v (ne_of_mem_of_not_mem written hk).symm).trans (h k hk)

/-- The PC action writes at most the PC (spec/48_execution_driver.md R243). -/
theorem sameRegsBut_of_complete {ds : List Reg} {s s' t : State} {a : PcAction} (h : complete a s' = .next t)
    (writes : SameRegsBut ds s s') : SameRegsBut (pcReg :: ds) s t := by
  intro k hk
  obtain ⟨notPc, kept⟩ : k ≠ pcReg ∧ k ∉ ds := by simpa using hk
  rw [complete_next h, State.returning_reg, State.applyPc_reg_ne _ _ notPc, writes k kept]

theorem sameRegsBut_of_complete_setReg {d : Reg} {v : Word} {a : PcAction} {s s' t : State}
    (h : complete a (s'.setReg d v) = .next t) (before : s'.regs = s.regs) : SameRegsBut [pcReg, d] s t :=
  sameRegsBut_of_complete h ((SameRegsBut.of_regs_eq before [d]).setReg (List.mem_singleton_self d) v)

/-- The handler of each instruction writes only the registers `writtenRegs` lists for it. -/
theorem exec_sameRegsBut {i : Instr} {s t : State} (h : exec i s = .next t) :
    SameRegsBut (pcReg :: writtenRegs i) s t := by
  cases i with
  | halt => cases h; exact .of_regs_eq rfl _
  | store =>
    simp only [exec, execStore] at h
    obtain ⟨-, h⟩ := withCell_next h
    exact sameRegsBut_of_complete h (.of_regs_eq rfl [])
  | load | addm | subm | jump =>
    simp only [exec, execLoad, execAddm, execSubm, execJump] at h
    obtain ⟨-, h⟩ := withCell_next h
    exact sameRegsBut_of_complete_setReg h rfl
  | call =>
    simp only [exec, execCall] at h
    obtain ⟨-, h⟩ := withCell_next h
    obtain ⟨-, h⟩ := withCell_next h
    exact sameRegsBut_of_complete h (((SameRegsBut.of_regs_eq rfl [spReg, pcReg]).setReg (by simp) _).setReg (by simp) _)
  | ret =>
    simp only [exec, execRet] at h
    obtain ⟨-, h⟩ := withCell_next h
    exact sameRegsBut_of_complete h (((SameRegsBut.of_regs_eq rfl [pcReg, spReg]).setReg (by simp) _).setReg (by simp) _)
  | rch r =>
    rcases hi : s.inp with _ | ⟨c, rest⟩
    · cases (exec_rch_of_inp_nil hi r).symm.trans h
      exact .of_regs_eq rfl _
    · rw [exec_rch_of_inp_cons hi r] at h
      exact sameRegsBut_of_complete_setReg h rfl
  | wch | wrl | skgt | skge | skeq | skle | sklt | nop => exact sameRegsBut_of_complete h (.of_regs_eq rfl [])
  | skov | sknov => cases h
  | x3_1 | x3_2 | x3_3 | x3_4 | x3_5 | x3_6 | x3_7 | x3_8 | x3_9 | x3_10 | x3_11 | x3_12 | x3_13 | x3_14 | x3_15 => cases h
  | _ => exact sameRegsBut_of_complete_setReg h rfl

/-- Settles O22: the frame of each instruction, and that HALT and a waiting RCH only record what they return. -/
theorem unwrittenRegistersKeepTheirWords : Obligations.UnwrittenRegistersKeepTheirWords := by
  intro s t i h
  refine ⟨exec_sameRegsBut h, fun notOk => ?_⟩
  obtain ⟨-, rfl⟩ | ⟨-, -, rfl⟩ | ⟨a, s', -, rfl⟩ := exec_next_cases h
  · rfl
  · rfl
  · exact absurd rfl notOk

end Sys2Proof.Machine
end

section
/-! The X1 family (spec/47_misc_x1.md): NOP advances, and RET advances from the state that has popped its return address. -/

namespace Sys2Proof.Machine

/-- Settles O53: the word is the encoding of NOP, which is an advance by 1 and no more. -/
theorem nopOnlyAdvances : Obligations.NopOnlyAdvances :=
  ⟨decodeOfEncodeGivesInstruction .nop rfl, complete_advanced 1⟩

theorem exec_ret_of_not_inRange {s : State} (h : ¬ s.InRange s.popSlot) : exec .ret s = .fault .outOfRange :=
  if_neg h

/-- Settles O54: the frame of the two register writes, then that of the advance. -/
theorem retPopsAndAdvances : Obligations.RetPopsAndAdvances := by
  intro s
  split
  case isTrue inRange =>
    rw [exec_ret_of_inRange inRange]
    obtain ⟨t, ht, pc, regs, mem, hostSide, status⟩ :=
      complete_advanced 1 ((s.setReg pcReg (s.memRead s.popSlot.toNat)).setReg spReg (s.sp + 1#32))
    refine ⟨t, ht, ?_, ?_, fun k hk => ?_, mem, hostSide, status⟩
    · simpa [State.popSlot] using pc
    · exact (regs spReg (by decide)).trans (State.setReg_reg_self _ _ _)
    · obtain ⟨notSp, notPc⟩ : k ≠ spReg ∧ k ≠ pcReg := by simpa using hk
      rw [regs k (by simpa using notPc), State.setReg_reg_ne _ _ notSp, State.setReg_reg_ne _ _ notPc]
  case isFalse outOfRange => exact exec_ret_of_not_inRange outOfRange

end Sys2Proof.Machine
end

section
/-! What a step returns (spec/48_execution_driver.md R240, R249): it is `exec` of the instruction at the PC, never a refusal,
and it reads nothing of the status an earlier step left. -/

namespace Sys2Proof.Machine

/-! ## The instruction at the PC -/

/-- A PC that addresses a cell reads the same signed and unsigned. -/
theorem State.InRange.pc_toNat {s : State} (h : s.InRange s.pc.toInt) : s.pc.toInt.toNat = s.pc.toNat :=
  BitVec.toNat_toInt_of_msb s.pc (by simpa [BitVec.msb_eq_toInt] using h.1)

/-- Settles O14: the fetch reads the cell at the PC. -/
theorem stepRunsDecodedInstruction : Obligations.StepRunsDecodedInstruction := by
  intro s i low high decodes
  have inRange : s.InRange s.pc.toInt := ⟨low, high⟩
  exact step_of_fetch (fetch_of_inRange inRange) (by rwa [inRange.pc_toNat])

/-- Settles O18: HALT only records its status. -/
theorem haltChangesNothing : Obligations.HaltChangesNothing :=
  ⟨rfl, fun _ => ⟨_, rfl, rfl, fun _ _ => rfl, fun _ => rfl, rfl, rfl, rfl⟩⟩

/-! ## No refusal -/

/-- A checked access refuses only where its continuation does: outside memory it is a fault. -/
theorem withCell_ne_refused {s : State} {a : Int} {k : Nat → Host.Outcome State Fault Refusal} {r : Refusal}
    (h : ∀ ea, k ea ≠ .refused r) : withCell s a k ≠ .refused r := by
  unfold withCell
  split
  · exact h _
  · nofun

/-- Every instruction completes, halts, waits or faults (spec/48_execution_driver.md R249). -/
theorem exec_ne_refused (i : Instr) (s : State) (r : Refusal) : exec i s ≠ .refused r := by
  cases i with
  | load | store | addm | subm | jump | ret =>
    simp only [exec, execLoad, execStore, execAddm, execSubm, execJump, execRet]
    exact withCell_ne_refused nofun
  | call =>
    simp only [exec, execCall]
    exact withCell_ne_refused fun _ => withCell_ne_refused nofun
  | rch d =>
    rcases hi : s.inp with _ | ⟨c, rest⟩
    · rw [exec_rch_of_inp_nil hi]; nofun
    · rw [exec_rch_of_inp_cons hi]; nofun
  | _ => nofun

/-- Settles O16: fetch and decode fail with faults, and no instruction refuses. -/
theorem stepNeverRefuses : Obligations.StepNeverRefuses := by
  intro s r
  unfold step
  split
  · nofun
  · split
    · nofun
    · exact exec_ne_refused _ s r

/-! ## The status of an earlier step is read by nothing (spec/10_state.md R34) -/

theorem exec_returning (i : Instr) (s : State) (st : Option Status) : exec i (s.returning st) = exec i s := by
  cases i with
  | rch d =>
    rcases hi : s.inp with _ | ⟨c, rest⟩
    · rw [exec_rch_of_inp_nil hi, exec_rch_of_inp_nil (s := s.returning st) hi]; rfl
    · rw [exec_rch_of_inp_cons hi, exec_rch_of_inp_cons (s := s.returning st) hi]; rfl
  | _ => rfl

theorem step_returning (s : State) (st : Option Status) : step (s.returning st) = step s := by
  have fetches : (s.returning st).fetch = s.fetch := rfl
  simp only [step, fetches, exec_returning]
  rfl

end Sys2Proof.Machine
end

section
/-! What a step returns to the host (spec/48_execution_driver.md R246 to R252): a status other than OK is all that its step
changes, so it repeats, and `run` returns the first one. -/

namespace Sys2Proof.Machine

/-! ## Halt and the faults -/

theorem hostStep_returning (s : State) (st : Option Status) : hostStep (s.returning st) = hostStep s := by
  simp only [hostStep, step_returning]
  rfl

/-- A step that returns a status other than OK only records it (spec/48_execution_driver.md R246, R247). -/
theorem hostStep_not_ok {s t : State} {st : Status} (h : hostStep s = some (st, t)) (notOk : st ≠ .ok) :
    t = s.returning (some st) := by
  unfold hostStep at h
  split at h
  case h_1 u hstep =>
    obtain ⟨w, i, -, -, hexec⟩ := step_next hstep
    obtain ⟨-, rfl⟩ | ⟨-, -, rfl⟩ | ⟨a, s', -, rfl⟩ := exec_next_cases hexec
    · cases h; rfl
    · cases h
    · cases h; exact absurd rfl notOk
  case h_2 f _ => cases h; rfl
  case h_3 => cases h

/-- Settles O20: the state after differs in the recorded status alone, which no step reads. -/
theorem haltAndFaultsRepeat : Obligations.HaltAndFaultsRepeat := by
  intro s t st h notOk
  obtain rfl := hostStep_not_ok h notOk
  rwa [hostStep_returning]

/-! ## run -/

theorem run_succ_of_ok {s t : State} (h : hostStep s = some (.ok, t)) (n : Nat) : run (n + 1) s = run n t := by
  simp [run, h]

theorem run_succ_of_not_ok {s t : State} {st : Status} (h : hostStep s = some (st, t)) (notOk : st ≠ .ok) (n : Nat) :
    run (n + 1) s = .returned st t := by
  cases st with
  | ok => exact absurd rfl notOk
  | halt | invalidInstruction | notImplemented | outOfRange => simp [run, h]

/-- OK steps cost one fuel each and are no part of the result (spec/48_execution_driver.md R250). -/
theorem run_add_of_okSteps {k : Nat} {s u : State} (h : OkSteps k s u) (m : Nat) : run (k + m) s = run m u := by
  induction h with
  | zero => rw [Nat.zero_add]
  | succ first _ ih => rw [Nat.succ_add, run_succ_of_ok first, ih]

/-- A run that returns a status ended at its first step or goes on from an OK step. -/
theorem run_succ_returned {n : Nat} {s t : State} {st : Status} (h : run (n + 1) s = .returned st t) :
    (hostStep s = some (st, t) ∧ st ≠ .ok) ∨ ∃ u, hostStep s = some (.ok, u) ∧ run n u = .returned st t := by
  rcases hs : hostStep s with _ | ⟨st', u⟩
  · simp [run, hs] at h
  by_cases ok : st' = .ok
  · subst ok
    exact .inr ⟨u, rfl, (run_succ_of_ok hs n).symm.trans h⟩
  · cases (run_succ_of_not_ok hs ok n).symm.trans h
    exact .inl ⟨rfl, ok⟩

/-- The OK steps before the status a run returns. -/
theorem exists_okSteps_of_run_returned {n : Nat} {s t : State} {st : Status} (h : run n s = .returned st t) :
    ∃ k u, k < n ∧ OkSteps k s u ∧ hostStep u = some (st, t) ∧ st ≠ .ok := by
  induction n generalizing s with
  | zero => cases h
  | succ n ih =>
    obtain ⟨last, notOk⟩ | ⟨u, first, rest⟩ := run_succ_returned h
    · exact ⟨0, s, n.succ_pos, .zero s, last, notOk⟩
    · obtain ⟨k, v, fuel, oks, last⟩ := ih rest
      exact ⟨k + 1, v, Nat.succ_lt_succ fuel, .succ first oks, last⟩

/-- Settles O58: forwards by induction on the fuel, backwards by running off the OK steps. -/
theorem runReturnsFirstNonOkStatus : Obligations.RunReturnsFirstNonOkStatus := by
  refine fun n s t st => ⟨exists_okSteps_of_run_returned, ?_⟩
  rintro ⟨k, u, fuel, oks, last, notOk⟩
  obtain ⟨m, rfl⟩ : ∃ m, n = k + (m + 1) := Nat.exists_eq_add_of_lt fuel
  rw [run_add_of_okSteps oks, run_succ_of_not_ok last notOk]

end Sys2Proof.Machine
end

section
/-! The PC rule (spec/48_execution_driver.md R243): an advance is by 1, or by 2 where a skip is taken, from the PC that the
handler left, which is that before the step unless the handler wrote register 15. -/

namespace Sys2Proof.Machine

/-- The PC action is applied to the PC the handler leaves (spec/48_execution_driver.md R243). -/
theorem complete_advance_pc {n : Nat} {s t : State} (h : complete (.advance n) s = .next t) :
    t.pc = s.pc + BitVec.ofNat 32 n := by
  simp [complete_next h]

theorem writeAndAdvance_pc {d : Reg} {v : Word} {s t : State} (h : writeAndAdvance d v s = .next t) (notPc : pcReg ≠ d) :
    t.pc = s.pc + 1#32 := by
  simpa [notPc.symm] using complete_advance_pc h

theorem skipIf_pc {c : Bool} {s t : State} (h : skipIf c s = .next t) : t.pc = s.pc + 1#32 ∨ t.pc = s.pc + 2#32 := by
  cases c with
  | false => exact .inl (complete_advance_pc h)
  | true => exact .inr (complete_advance_pc h)

/-- Settles O21: HALT and a waiting RCH return no OK, a transfer and RET are ruled out, and every other instruction ends in
one of the three advances. -/
theorem nonTransferAdvancesPc : Obligations.NonTransferAdvancesPc := by
  intro s t i h ok noTransfer notWritten
  cases i with
  | halt => cases h; cases ok
  | jump | call | ori => cases noTransfer
  | ret => exact absurd List.mem_cons_self notWritten
  | load | addm | subm =>
    simp only [exec, execLoad, execAddm, execSubm] at h
    obtain ⟨-, h⟩ := withCell_next h
    exact .inl (writeAndAdvance_pc h (List.ne_of_not_mem_cons notWritten))
  | store =>
    simp only [exec, execStore] at h
    obtain ⟨-, h⟩ := withCell_next h
    exact .inl (complete_advance_pc (s := s.memWrite _ _) h)
  | skgt | skge | skeq | skle | sklt => exact (skipIf_pc h).imp_right fun two => ⟨rfl, two⟩
  | skov | sknov => cases h
  | x3_1 | x3_2 | x3_3 | x3_4 | x3_5 | x3_6 | x3_7 | x3_8 | x3_9 | x3_10 | x3_11 | x3_12 | x3_13 | x3_14 | x3_15 => cases h
  | rch r =>
    rcases hi : s.inp with _ | ⟨c, rest⟩
    · cases (exec_rch_of_inp_nil hi r).symm.trans h
      cases ok
    · rw [exec_rch_of_inp_cons hi r] at h
      exact .inl (writeAndAdvance_pc (s := { s with inp := rest }) h (List.ne_of_not_mem_cons notWritten))
  | wch | wrl => exact .inl (complete_advance_pc (s := s.emit _) h)
  | nop => exact .inl (complete_advance_pc h)
  | _ => exact .inl (writeAndAdvance_pc h (List.ne_of_not_mem_cons notWritten))

end Sys2Proof.Machine
end

section
/-! The host's transactions (spec/49_host_interface.md): construction, and the reads and writes of one register and of one
cell. -/

namespace Sys2Proof.Machine

/-! ## Construction -/

theorem State.construct_reg (size : Nat) (r : Reg) : (State.construct size).reg r = 0#32 := by
  simp [State.reg, State.construct]

/-- Settles O10: the register file is sixteen zero words, no cell is listed, and reset is such a construction. -/
theorem constructZeroesRegistersAndMemory : Obligations.ConstructZeroesRegistersAndMemory :=
  ⟨fun size r _ => ⟨State.construct_reg size r, rfl, rfl, rfl⟩, Config.resetSize, by decide, rfl⟩

/-! ## Registers (spec/49_host_interface.md R263, R264) -/

theorem regOfIndex_val (r : Reg) : regOfIndex (r.val : Int) = some r := by
  have valid : 0 ≤ (r.val : Int) ∧ (r.val : Int) < 16 := by omega
  simp [regOfIndex, valid]

theorem regOfIndex_of_invalid {i : Int} (h : i < 0 ∨ 16 ≤ i) : regOfIndex i = none :=
  dif_neg (by omega)

theorem getRegister_val (r : Reg) (s : State) : getRegister (r.val : Int) s = .word (s.reg r) := by
  rw [getRegister, regOfIndex_val]

theorem setRegister_val (r : Reg) (v : Word) (s : State) : setRegister (r.val : Int) v s = (.ok, s.setReg r v) := by
  rw [setRegister, regOfIndex_val]

/-- Settles O55: an index names one register or none. -/
theorem getRegisterReadsOrFails : Obligations.GetRegisterReadsOrFails := by
  intro s i
  constructor
  · rintro r rfl
    exact getRegister_val r s
  · intro invalid
    rw [getRegister, regOfIndex_of_invalid invalid]

/-- Settles O56: for a valid index the transaction is one register write. -/
theorem setRegisterWritesOrFails : Obligations.SetRegisterWritesOrFails := by
  intro s i v
  constructor
  · rintro r rfl
    rw [setRegister_val, getRegister_val, State.setReg_reg_self]
    refine ⟨rfl, rfl, fun k other => ?_, fun _ => rfl, rfl, rfl, rfl⟩
    exact s.setReg_reg_ne v (by simpa using other)
  · intro invalid
    rw [setRegister, regOfIndex_of_invalid invalid]

/-! ## Memory (spec/49_host_interface.md R265, R266) -/

section
variable {s : State} {a : Int}

theorem readMemory_of_inRange (h : s.InRange a) : readMemory a s = .word (s.memRead a.toNat) := if_pos h

theorem readMemory_of_not_inRange (h : ¬ s.InRange a) : readMemory a s = .failed .outOfRange := if_neg h

theorem writeMemory_of_inRange (h : s.InRange a) (v : Word) : writeMemory a v s = (.ok, s.memWrite a.toNat v) := if_pos h

theorem writeMemory_of_not_inRange (h : ¬ s.InRange a) (v : Word) : writeMemory a v s = (.outOfRange, s) := if_neg h

/-- Two addresses of memory name the same cell only if they are equal. -/
theorem State.InRange.toNat_eq_iff {b : Int} (hb : s.InRange b) (ha : s.InRange a) : b.toNat = a.toNat ↔ b = a := by
  obtain ⟨hb, -⟩ := hb
  obtain ⟨ha, -⟩ := ha
  omega

theorem State.InRange.memRead_memWrite {b : Int} (hb : s.InRange b) (ha : s.InRange a) (v : Word) :
    (s.memWrite a.toNat v).memRead b.toNat = if b = a then v else s.memRead b.toNat := by
  simp [hb.toNat_eq_iff ha]

/-- A read after a write in memory: the written word at its address, what was read before at every other. -/
theorem readMemory_memWrite (ha : s.InRange a) (v : Word) (b : Int) :
    readMemory b (s.memWrite a.toNat v) = if b = a then .word v else readMemory b s := by
  by_cases hb : s.InRange b
  · rw [readMemory_of_inRange (s := s.memWrite a.toNat v) hb, readMemory_of_inRange hb, hb.memRead_memWrite ha]
    split <;> rfl
  · have other : b ≠ a := fun e => hb (e ▸ ha)
    rw [readMemory_of_not_inRange (s := s.memWrite a.toNat v) hb, readMemory_of_not_inRange hb, if_neg other]

/-- A fetch reads the PC, SIZE and the cell the PC addresses, and nothing else. -/
theorem State.fetch_congr {s t : State} (pc : t.pc = s.pc) (size : t.size = s.size)
    (cell : t.memRead s.pc.toInt.toNat = s.memRead s.pc.toInt.toNat) : t.fetch = s.fetch := by
  simp only [State.fetch, State.InRange, pc, size, cell]

/-- A fetch after a write in memory sees the written word exactly if the PC addresses that cell. -/
theorem State.fetch_memWrite (ha : s.InRange a) (v : Word) :
    (s.memWrite a.toNat v).fetch = if s.pc.toInt = a then some v else s.fetch := by
  by_cases hpc : s.InRange s.pc.toInt
  · rw [fetch_of_inRange (s := s.memWrite a.toNat v) hpc, fetch_of_inRange hpc, State.memWrite_pc, hpc.memRead_memWrite ha]
    split <;> rfl
  · have other : s.pc.toInt ≠ a := fun e => hpc (e ▸ ha)
    rw [fetch_of_not_inRange (s := s.memWrite a.toNat v) hpc, fetch_of_not_inRange hpc, if_neg other]

end

/-- Settles O57: inside memory the transactions are a cell's read and write, and a read or fetch after a write sees it. -/
theorem hostMemoryReadsAndWrites : Obligations.HostMemoryReadsAndWrites := by
  intro s a v
  split
  case isTrue inRange =>
    rw [writeMemory_of_inRange inRange, readMemory_memWrite inRange, if_pos rfl]
    refine ⟨readMemory_of_inRange inRange, rfl, rfl, fun b other => ?_, State.fetch_memWrite inRange v, fun _ _ => rfl,
      rfl, rfl, rfl⟩
    rw [readMemory_memWrite inRange, if_neg other]
  case isFalse outOfRange => exact ⟨readMemory_of_not_inRange outOfRange, writeMemory_of_not_inRange outOfRange v⟩

end Sys2Proof.Machine
end

section
/-! The rejections of the decoder (spec/30_encoding.md R64, R72) and the reserved words (R77): which should-be-zero field each
opcode has, which words have no family, and which decode to a reserved instruction. -/

namespace Sys2Proof

/-- Settles O5: the decoder computes on each word. -/
theorem sampleWordsDecode : Obligations.SampleWordsDecode := by
  unfold Obligations.SampleWordsDecode
  decide

/-! ## The should-be-zero fields (spec/30_encoding.md R72) -/

/-- Word `w` has a bit set in the should-be-zero field of opcode `op` of family `f`; X6 and X3 have no such field. -/
def Family.ShouldBeZeroSet : Family → Nat → Word → Prop
  | .x7, op, w => (op = 5 ∨ op = 6) ∧ field w 23 20 ≠ 0
  | .x6, _, _ => False
  | .x5, op, w => op ≤ 6 ∧ field w 10 0 ≠ 0
  | .x4, op, w => op ≤ 11 ∧ field w 7 0 ≠ 0
  | .x3, _, _ => False
  | .x2, op, w => op ≤ 3 ∧ field w 3 0 ≠ 0
  | .x1, op, w => op ≤ 2 ∧ field w 3 0 ≠ 0

theorem ifZero_eq_shouldBeZero_iff (sbz : Nat) (i : Instr) : ifZero sbz i = .invalid .shouldBeZero ↔ sbz ≠ 0 := by
  unfold ifZero
  split <;> simp_all

/-- Each opcode a nibble can hold, run through its family function. -/
theorem Selects.decode_shouldBeZero_iff {w : Word} {f : Family} {op : Nat} (h : Selects w f op) :
    decode w = .invalid .shouldBeZero ↔ f.ShouldBeZeroSet op w := by
  have pos := h.pos
  have lt := h.lt
  have selector := h.field_eq
  rw [h.decode_eq]
  cases f with
  | x7 | x6 | x5 | x4 | x3 | x2 | x1 =>
    simp only [Family.selectorLow, Nat.reduceAdd] at selector
    simp only [Family.decode, decodeX7, decodeX6, decodeX5, decodeX4, decodeX3, decodeX2, decodeX1, selector]
    interval_cases op <;> simp [Family.ShouldBeZeroSet, ifZero_eq_shouldBeZero_iff]

/-- Settles O7: the selector bounds of the statement single out the word's own family, and with it the checked field. -/
theorem shouldBeZeroBitsAreChecked : Obligations.ShouldBeZeroBitsAreChecked := by
  intro w
  have bound := w.isLt
  cases wordKind w with
  | zero toNat decodes => simp [decodes, toNat]
  | noFamily small decodes =>
    simp only [decodes, Decoded.invalid.injEq, reduceCtorEq, false_iff]
    omega
  | family f op selects =>
    rw [selects.decode_shouldBeZero_iff]
    obtain ⟨selector, pos, lt⟩ := selects
    cases f <;> simp only [Family.selectorLow, Family.ShouldBeZeroSet, field, false_iff] at * <;> omega

/-! ## The words of no family (spec/30_encoding.md R64) -/

theorem ifZero_ne_noFamily (sbz : Nat) (i : Instr) : ifZero sbz i ≠ .invalid .noFamily := by
  unfold ifZero
  split <;> simp

/-- A family function rejects only opcodes and should-be-zero bits. -/
theorem Family.decode_ne_noFamily (f : Family) (w : Word) : f.decode w ≠ .invalid .noFamily := by
  cases f with
  | x7 | x6 | x5 | x4 | x3 | x2 | x1 =>
    simp only [Family.decode, decodeX7, decodeX6, decodeX5, decodeX4, decodeX3, decodeX2, decodeX1]
    split <;> simp [ifZero_ne_noFamily]

/-- Settles O8: no family gives this rejection, and the decoder sends the words 1 to 15 to no family. -/
theorem wordsWithoutFamilyAreInvalid : Obligations.WordsWithoutFamilyAreInvalid := by
  intro w
  constructor
  · intro h
    cases wordKind w with
    | zero _ decodes => cases decodes.symm.trans h
    | family f _ selects => exact absurd (selects.decode_eq.symm.trans h) (f.decode_ne_noFamily w)
    | noFamily small _ =>
      refine ⟨Nat.pos_of_ne_zero fun zero => ?_, small⟩
      rw [(word_eq_zero_iff w).2 zero] at h
      cases h
  · rintro ⟨pos, small⟩
    exact decode_noFamily (fun zero => pos.ne' ((word_eq_zero_iff w).1 zero)) small

/-! ## The reserved words (spec/30_encoding.md R77) -/

/-- X3 defines its fifteen opcodes, each reserved. -/
theorem Selects.decode_x3_isReserved {w : Word} {op : Nat} (h : Selects w .x3 op) :
    ∃ i, decode w = .instr i ∧ Machine.isReserved i = true := by
  have pos := h.pos
  have lt := h.lt
  obtain ⟨family, selector⟩ := h.decode_x3
  interval_cases op <;> simp [family, decodeX3, selector, Machine.isReserved, Instr.familyOpcode]

theorem decode_isReserved {w : Word}
    (h : w.toNat / 2 ^ 16 = 12 ∨ w.toNat / 2 ^ 16 = 13 ∨ (1 ≤ w.toNat / 2 ^ 12 ∧ w.toNat / 2 ^ 12 ≤ 15)) :
    ∃ i, decode w = .instr i ∧ Machine.isReserved i = true := by
  obtain selector | selector | ⟨pos, last⟩ := h
  · obtain ⟨family, op⟩ := Selects.decode_x4 ⟨selector, by decide, by decide⟩
    exact ⟨.skov (w.setWidth 16), by simp [family, decodeX4, op], rfl⟩
  · obtain ⟨family, op⟩ := Selects.decode_x4 ⟨selector, by decide, by decide⟩
    exact ⟨.sknov (w.setWidth 16), by simp [family, decodeX4, op], rfl⟩
  · exact Selects.decode_x3_isReserved ⟨rfl, pos, Nat.lt_succ_of_le last⟩

namespace Machine

/-- Settles O9: a reserved word decodes to a reserved instruction. -/
theorem reservedWordsReturnNotImplemented : Obligations.ReservedWordsReturnNotImplemented := by
  intro s w fetches reserved
  obtain ⟨i, decodes, isReserved⟩ := decode_isReserved reserved
  rw [step_of_fetch fetches decodes, exec_of_isReserved isReserved]

end Machine

end Sys2Proof
end

section
/-! How a step stops (spec/48_execution_driver.md R245 to R247): the causes of its faults, one constructor each, and that a
step which returns no OK changes nothing. -/

namespace Sys2Proof.Machine

/-! ## The checks of a step, in their order (spec/48_execution_driver.md R245) -/

theorem step_of_not_inRange {s : State} (h : ¬ s.InRange s.pc.toInt) : step s = .fault .outOfRange := by
  rw [step, fetch_of_not_inRange h]
  rfl

theorem step_of_invalid {s : State} {w : Word} {why : Reject} (fetches : s.fetch = some w)
    (rejects : decode w = .invalid why) : step s = .fault .invalidInstruction := by
  simp only [step, fetches, rejects]
  rfl

/-- Settles O15: the PC is checked before the word, and an address in range is the one fetched from. -/
theorem stepChecksFetchThenDecode : Obligations.StepChecksFetchThenDecode := by
  intro s
  refine ⟨fun outside => step_of_not_inRange fun ⟨low, high⟩ => ?_, fun why low high rejects => ?_⟩
  · omega
  · have inRange : s.InRange s.pc.toInt := ⟨low, high⟩
    exact step_of_invalid (fetch_of_inRange inRange) (by rwa [inRange.pc_toNat])

/-! ## The causes of the faults (spec/60_exceptions.md R282) -/

/-- Instruction `i` accesses an address outside memory from state `s`: an effective address, the slot CALL pushes to or the
slot RET pops from. -/
def AccessOutside (i : Instr) (s : State) : Prop :=
  (∃ x base, memOperand i = some (x, base) ∧ ¬ s.InRange (s.effAddr x base)) ∨
  ((∃ x base, i = .call x base) ∧ ¬ s.InRange s.pushSlot) ∨
  (i = .ret ∧ ¬ s.InRange s.popSlot)

theorem AccessOutside.exec_eq {i : Instr} {s : State} (h : AccessOutside i s) : exec i s = .fault .outOfRange := by
  obtain ⟨x, base, operand, outside⟩ | ⟨⟨x, base, rfl⟩, outside⟩ | ⟨rfl, outside⟩ := h
  · exact exec_of_effAddr_not_inRange operand outside
  · by_cases target : s.InRange (s.effAddr x base)
    · rw [exec_call_of_target_inRange target, withCell_of_not_inRange outside]
    · exact exec_of_effAddr_not_inRange rfl target
  · exact exec_ret_of_not_inRange outside

/-- A checked access faults if its address is outside memory or its continuation faults. -/
theorem withCell_fault {s : State} {a : Int} {k : Nat → Host.Outcome State Fault Refusal} {f : Fault}
    (h : withCell s a k = .fault f) : (f = .outOfRange ∧ ¬ s.InRange a) ∨ k a.toNat = .fault f := by
  unfold withCell at h
  split at h
  · exact .inr h
  · cases h; exact .inl ⟨rfl, ‹_›⟩

/-- An instruction faults only as a reserved one or on an access outside memory. -/
theorem exec_fault {i : Instr} {s : State} {f : Fault} (h : exec i s = .fault f) :
    (f = .notImplemented ∧ isReserved i = true) ∨ (f = .outOfRange ∧ AccessOutside i s) := by
  cases i with
  | load d x base | store d x base | addm d x base | subm d x base | jump x base =>
    simp only [exec, execLoad, execStore, execAddm, execSubm, execJump] at h
    obtain ⟨rfl, outside⟩ | h := withCell_fault h
    · exact .inr ⟨rfl, .inl ⟨x, base, rfl, outside⟩⟩
    · cases h
  | call x base =>
    simp only [exec, execCall] at h
    obtain ⟨rfl, outside⟩ | h := withCell_fault h
    · exact .inr ⟨rfl, .inl ⟨x, base, rfl, outside⟩⟩
    obtain ⟨rfl, outside⟩ | h := withCell_fault h
    · exact .inr ⟨rfl, .inr (.inl ⟨⟨x, base, rfl⟩, outside⟩)⟩
    · cases h
  | ret =>
    simp only [exec, execRet] at h
    obtain ⟨rfl, outside⟩ | h := withCell_fault h
    · exact .inr ⟨rfl, .inr (.inr ⟨rfl, outside⟩)⟩
    · cases h
  | skov | sknov => cases h; exact .inl ⟨rfl, rfl⟩
  | x3_1 | x3_2 | x3_3 | x3_4 | x3_5 | x3_6 | x3_7 | x3_8 | x3_9 | x3_10 | x3_11 | x3_12 | x3_13 | x3_14 | x3_15 =>
    cases h; exact .inl ⟨rfl, rfl⟩
  | rch r =>
    rcases hi : s.inp with _ | ⟨c, rest⟩
    · cases (exec_rch_of_inp_nil hi r).symm.trans h
    · cases (exec_rch_of_inp_cons hi r).symm.trans h
  | _ => cases h

/-- Why a step from `s` faults, cause by cause. -/
inductive FaultCause (s : State) : Fault → Prop where
  | fetch (outside : ¬ s.InRange s.pc.toInt) : FaultCause s .outOfRange
  | invalid {w : Word} {why : Reject} (fetches : s.fetch = some w) (rejects : decode w = .invalid why) :
      FaultCause s .invalidInstruction
  | reserved {w : Word} {i : Instr} (fetches : s.fetch = some w) (decodes : decode w = .instr i)
      (reserved : isReserved i = true) : FaultCause s .notImplemented
  | access {w : Word} {i : Instr} (fetches : s.fetch = some w) (decodes : decode w = .instr i)
      (outside : AccessOutside i s) : FaultCause s .outOfRange

theorem FaultCause.step_eq {s : State} {f : Fault} (h : FaultCause s f) : step s = .fault f := by
  cases h with
  | fetch outside => exact step_of_not_inRange outside
  | invalid fetches rejects => exact step_of_invalid fetches rejects
  | reserved fetches decodes reserved => rw [step_of_fetch fetches decodes, exec_of_isReserved reserved]
  | access fetches decodes outside => rw [step_of_fetch fetches decodes, outside.exec_eq]

theorem faultCause_of_step {s : State} {f : Fault} (h : step s = .fault f) : FaultCause s f := by
  by_cases inRange : s.InRange s.pc.toInt
  case neg => cases (step_of_not_inRange inRange).symm.trans h; exact .fetch inRange
  have fetches := fetch_of_inRange inRange
  cases decodes : decode (s.memRead s.pc.toInt.toNat) with
  | invalid why => cases (step_of_invalid fetches decodes).symm.trans h; exact .invalid fetches decodes
  | instr i =>
    rw [step_of_fetch fetches decodes] at h
    obtain ⟨rfl, reserved⟩ | ⟨rfl, outside⟩ := exec_fault h
    · exact .reserved fetches decodes reserved
    · exact .access fetches decodes outside

theorem step_fault_iff (s : State) (f : Fault) : step s = .fault f ↔ FaultCause s f :=
  ⟨faultCause_of_step, FaultCause.step_eq⟩

/-- Settles O17: each clause lists the constructors of `FaultCause` at its fault. -/
theorem stepFaultsExactlyByCause : Obligations.StepFaultsExactlyByCause := by
  intro s
  simp only [step_fault_iff]
  refine ⟨⟨?_, ?_⟩, ⟨?_, ?_⟩, ⟨?_, ?_⟩⟩
  · rintro (_ | ⟨fetches, rejects⟩)
    exact ⟨_, _, fetches, rejects⟩
  · rintro ⟨w, why, fetches, rejects⟩
    exact .invalid fetches rejects
  · rintro (_ | _ | ⟨fetches, decodes, reserved⟩)
    exact ⟨_, _, fetches, decodes, reserved⟩
  · rintro ⟨w, i, fetches, decodes, reserved⟩
    exact .reserved fetches decodes reserved
  · rintro (outside | _ | _ | ⟨fetches, decodes, outside⟩)
    · exact .inl outside
    · exact .inr ⟨_, _, fetches, decodes, outside⟩
  · rintro (outside | ⟨w, i, fetches, decodes, outside⟩)
    · exact .fetch outside
    · exact .access fetches decodes outside

/-! ## A step that returns no OK changes nothing -/

/-- Recording a status changes neither registers nor memory nor streams. -/
theorem sameMachine_returning (s : State) (st : Option Status) : SameMachine s (s.returning st) :=
  ⟨fun _ _ => rfl, fun _ => rfl, rfl, rfl, rfl⟩

/-- Settles O19: the step only recorded its status. -/
theorem nonOkStatusChangesNothing : Obligations.NonOkStatusChangesNothing := by
  intro s t st h notOk
  rw [hostStep_not_ok h notOk]
  exact sameMachine_returning s _

/-- A constructed machine fetches the zero word of its first cell, which is HALT. -/
theorem State.construct_fetch {size : Nat} (h : SizeOk size) : (State.construct size).fetch = some 0#32 :=
  fetch_of_inRange ⟨le_rfl, Int.natCast_pos.2 h.1⟩

/-- Settles O11: the first step is that of HALT. -/
theorem freshMachineHalts : Obligations.FreshMachineHalts := by
  intro size h
  obtain ⟨isHalt, halts⟩ := haltChangesNothing
  rw [step_of_fetch (State.construct_fetch h) isHalt]
  exact halts _

end Sys2Proof.Machine
end

section
/-! The X7 family again (spec/41_memref_x7.md): the two readings of the effective address, and STORE, ADDM and SUBM. -/

namespace Sys2Proof.Machine

/-! ## The effective address as an integer and as a wrapped sum (spec/41_memref_x7.md R100) -/

/-- A base and an index add to at most one wrap, which turns an address past 2^31 into a negative one: outside memory
either way. -/
theorem toInt_base_add {base : Nat} (h : base < 2 ^ 20) (index : Word) :
    (BitVec.ofNat 32 base + index).toInt =
      if (base : Int) + index.toInt < 2 ^ 31 then base + index.toInt else base + index.toInt - 2 ^ 32 := by
  have low : -2 ^ 31 ≤ index.toInt := BitVec.le_toInt index
  have high : index.toInt < 2 ^ 31 := BitVec.toInt_lt
  have fits : (BitVec.ofNat 32 base).toInt = base := by
    rw [BitVec.toInt_ofNat']
    exact Int.bmod_eq_of_le (by omega) (by omega)
  rw [BitVec.toInt_add, fits, Int.bmod_def]
  omega

/-- The index term of an effective address, zero when the index field is 0. -/
def State.indexWord (s : State) (x : Reg) : Word := if x = 0 then 0#32 else s.reg x

theorem State.effAddr_eq (s : State) (x : Reg) (base : Nat) : s.effAddr x base = base + (s.indexWord x).toInt := by
  unfold State.effAddr State.indexWord
  split <;> rfl

/-- Settles O25: where the two readings differ, both are outside memory. -/
theorem integerAndWrappedAddressAgree : Obligations.IntegerAndWrappedAddressAgree := by
  intro s x base ⟨_, maxSize⟩ fits wrapped
  have limit : (s.size : Int) ≤ 2 ^ 31 := by exact_mod_cast maxSize
  have high : (s.indexWord x).toInt < 2 ^ 31 := BitVec.toInt_lt
  have wrapped_eq : wrapped = if s.effAddr x base < 2 ^ 31 then s.effAddr x base else s.effAddr x base - 2 ^ 32 := by
    rw [s.effAddr_eq]
    exact toInt_base_add fits (s.indexWord x)
  have sum := s.effAddr_eq x base
  rw [wrapped_eq]
  split
  case isTrue => exact ⟨Iff.rfl, fun _ => rfl⟩
  case isFalse =>
    have outside : ¬ s.InRange (s.effAddr x base - 2 ^ 32) := fun ⟨low, _⟩ => by omega
    exact ⟨⟨fun ⟨_, inside⟩ => by omega, fun inside => absurd inside outside⟩,
      fun inside => absurd inside outside⟩

/-! ## STORE (spec/41_memref_x7.md R102) -/

/-- Settles O27: the word is the encoding of STORE, which advances from the state with the one cell written. -/
theorem storeWritesOneCell : Obligations.StoreWritesOneCell := by
  intro s d x base
  refine ⟨fun fits => decodeOfEncodeGivesInstruction (.store d x base) (decide_eq_true fits), ?_⟩
  split
  case isTrue inRange =>
    obtain ⟨t, ht, pc, regs, mem, hostSide, status⟩ :=
      complete_advanced 1 (s.memWrite (s.effAddr x base).toNat (s.reg d))
    refine ⟨t, (exec_store_of_inRange inRange d).trans ht, ?_, fun b other => ?_, regs, pc, hostSide, status⟩
    · simp [mem _]
    · simp [mem _, other]
  case isFalse outOfRange => exact exec_of_effAddr_not_inRange rfl outOfRange

/-! ## ADDM and SUBM (spec/41_memref_x7.md R103, R104) -/

theorem exec_addm_of_inRange {s : State} {x : Reg} {base : Nat} (h : s.InRange (s.effAddr x base)) (d : Reg) :
    exec (.addm d x base) s = writeAndAdvance d (s.reg d + s.memRead (s.effAddr x base).toNat) s :=
  withCell_of_inRange h fun ea => writeAndAdvance d (s.reg d + s.memRead ea) s

theorem exec_subm_of_inRange {s : State} {x : Reg} {base : Nat} (h : s.InRange (s.effAddr x base)) (d : Reg) :
    exec (.subm d x base) s = writeAndAdvance d (s.reg d - s.memRead (s.effAddr x base).toNat) s :=
  withCell_of_inRange h fun ea => writeAndAdvance d (s.reg d - s.memRead ea) s

/-- Settles O28: each result is one register write once the address is in memory. -/
theorem addmSubmCombineMemoryWord : Obligations.AddmSubmCombineMemoryWord := by
  intro s d x base
  split
  case isTrue inRange => exact ⟨exec_wrote (exec_addm_of_inRange inRange d), exec_wrote (exec_subm_of_inRange inRange d)⟩
  case isFalse outOfRange =>
    exact ⟨exec_of_effAddr_not_inRange rfl outOfRange, exec_of_effAddr_not_inRange rfl outOfRange⟩

end Sys2Proof.Machine
end

section
/-! The X6 family again (spec/42_immediate_x6.md): ADDI and SUBI, the two cases of LDS by its sign bit, and ORI, which keeps
the PC. -/

namespace Sys2Proof.Machine

/-! ## ADDI and SUBI -/

theorem exec_addi (d : Reg) (imm : BitVec 20) (s : State) :
    exec (.addi d imm) s = writeAndAdvance d (s.reg d + imm.signExtend 32) s := rfl

theorem exec_subi (d : Reg) (imm : BitVec 20) (s : State) :
    exec (.subi d imm) s = writeAndAdvance d (s.reg d - imm.signExtend 32) s := rfl

/-- Settles O36: ADDI and SUBI combine register `d` with the sign-extended immediate. -/
theorem addiSubiResults : Obligations.AddiSubiResults := fun s d imm =>
  ⟨exec_wrote (exec_addi d imm s), exec_wrote (exec_subi d imm s)⟩

/-! ## LDS by bit 19 -/

/-- Sign extension sets the twelve upper bits where bit 19 is set, and keeps the value where it is clear. -/
theorem signExtend_eq_ite (imm : BitVec 20) :
    imm.signExtend 32 =
      if 2 ^ 19 ≤ imm.toNat then BitVec.ofNat 32 imm.toNat ||| 0xFFF00000#32 else BitVec.ofNat 32 imm.toNat := by
  have upper : ∀ i : Fin 32, (0xFFF00000#32)[i.val] = decide (20 ≤ i.val) := by decide
  rw [BitVec.ofNat_toNat]
  split
  case isTrue negative =>
    have msb : imm.msb = true := by simpa [BitVec.msb_eq_decide] using negative
    ext i hi
    rw [BitVec.getElem_or, upper ⟨i, hi⟩, BitVec.getElem_signExtend, BitVec.getElem_setWidth]
    by_cases low : i < 20
    · simp [low]
    · simp [low, msb, Nat.le_of_not_lt low]
  case isFalse nonneg =>
    exact BitVec.signExtend_eq_setWidth_of_msb_false (by simpa [BitVec.msb_eq_decide] using nonneg)

/-- Settles O35: LDS writes the sign-extended immediate. -/
theorem ldsSetsUpperBitsBySign : Obligations.LdsSetsUpperBitsBySign := fun s d imm =>
  signExtend_eq_ite imm ▸ exec_wrote (exec_lds d imm s)

/-! ## ORI -/

/-- ORI writes register `d` with no PC action, so what it leaves is that write and the status. -/
theorem exec_ori (d : Reg) (imm : BitVec 20) (s : State) :
    exec (.ori d imm) s = .next ((s.setReg d (s.reg d ||| imm.signExtend 32)).returning (some .ok)) := rfl

/-- Settles O38: ORI is one register write. -/
theorem oriDoesNotAdvance : Obligations.OriDoesNotAdvance := by
  intro s d imm
  refine ⟨_, exec_ori d imm s, ?_, fun k other => ?_, fun _ => rfl, ⟨rfl, rfl, rfl⟩, rfl⟩
  · simp
  · exact s.setReg_reg_ne _ (by simpa using other)

/-- An ORI that adds no bit leaves the state it starts from, the status of an OK step included. -/
theorem exec_ori_of_or_eq_self {s : State} {d : Reg} {imm : BitVec 20} (held : s.reg d ||| imm.signExtend 32 = s.reg d)
    (ok : s.status = some .ok) : exec (.ori d imm) s = .next s := by
  rw [exec_ori, held, State.setReg_eq_self, ← ok]
  rfl

/-- Settles O39: the PC is kept, so the same ORI is fetched again, and the bits it would add are set. -/
theorem oriWithOtherRegisterHangs : Obligations.OriWithOtherRegisterHangs := by
  intro s d imm w fetches decodes notPc
  obtain ⟨t, ori, written, regs, mem, ⟨-, -, size⟩, ok⟩ := oriDoesNotAdvance s d imm
  have pc : t.pc = s.pc := regs pcReg (by simpa using notPc.symm)
  have fetchesAgain : t.fetch = some w := (State.fetch_congr pc size (mem _)).trans fetches
  have held : t.reg d ||| imm.signExtend 32 = t.reg d := by rw [written, BitVec.or_assoc, BitVec.or_self]
  exact ⟨t, (step_of_fetch fetches decodes).trans ori, pc,
    (step_of_fetch fetchesAgain decodes).trans (exec_ori_of_or_eq_self held ok)⟩

end Sys2Proof.Machine
end

section
/-! The closed forms of the shifts (spec/43_shift_x5.md R140): multiplication, division and floor division by 2^n, and the
rotations as or-ed shifts. -/

namespace Sys2Proof.Machine

/-! ## The shifts -/

theorem shiftLeft_eq_mul (v : Word) (n : Nat) : v <<< n = BitVec.ofNat 32 (v.toNat * 2 ^ n) := by
  apply BitVec.eq_of_toNat_eq
  rw [BitVec.toNat_shiftLeft, Nat.shiftLeft_eq, BitVec.toNat_ofNat]

theorem ushiftRight_eq_div (v : Word) (n : Nat) : v >>> n = BitVec.ofNat 32 (v.toNat / 2 ^ n) := by
  apply BitVec.eq_of_toNat_eq
  rw [BitVec.toNat_ushiftRight, Nat.shiftRight_eq_div_pow, BitVec.toNat_ofNat,
    Nat.mod_eq_of_lt ((Nat.div_le_self _ _).trans_lt v.isLt)]

theorem sshiftRight_eq_div (v : Word) (n : Nat) : v.sshiftRight n = BitVec.ofInt 32 (v.toInt / 2 ^ n) := by
  rw [BitVec.sshiftRight, Int.shiftRight_eq_div_pow, Nat.cast_pow, Nat.cast_ofNat]

/-! ## The rotations -/

/-- Up to 32 one-bit rotations: the bits that left at the top stand below the ones that moved up. -/
theorem iterate_stepRol {n : Nat} (h : n ≤ 32) (v : Word) : stepRol^[n] v = v <<< n ||| v >>> (32 - n) := by
  induction n with
  | zero => simp [BitVec.ushiftRight_eq_zero]
  | succ n ih =>
    rw [Function.iterate_succ_apply', ih (by omega), stepRol_eq]
    ext i hi
    rw [BitVec.getElem_rotateLeft]
    rcases i with _ | i
    · have beyond : v.getLsbD (32 - n + 31) = false := BitVec.getLsbD_of_ge v _ (by omega)
      simp [beyond, show n ≤ 31 by omega, BitVec.getLsbD_eq_getElem (show 31 - n < 32 by omega)]
    · simp [show 32 - n + i = 31 - n + (i + 1) by omega]

/-- Rotating right by n undoes the last n of 32 rotations to the left, which together change nothing. -/
theorem iterate_stepRor {n : Nat} (h : n ≤ 32) (v : Word) : stepRor^[n] v = v >>> n ||| v <<< (32 - n) := by
  have whole : stepRol^[n] (stepRol^[32 - n] v) = v := by
    rw [← Function.iterate_add_apply, Nat.add_sub_cancel' h, iterate_stepRol le_rfl]
    simp
  have back := stepRor_leftInverse_stepRol.iterate n (stepRol^[32 - n] v)
  rw [whole, iterate_stepRol (Nat.sub_le 32 n), Nat.sub_sub_self h] at back
  rw [back, BitVec.or_comm]

/-- The closed form of a rotation by 0 is the word itself. -/
theorem rol_closed_form {n : Nat} (h : n < 32) (v : Word) :
    repeatStep stepRol n v = if n = 0 then v else (v <<< n) ||| (v >>> (32 - n)) := by
  split
  case isTrue zero => rw [zero]; rfl
  case isFalse => rw [repeatStep_eq_iterate, iterate_stepRol h.le]

theorem ror_closed_form {n : Nat} (h : n < 32) (v : Word) :
    repeatStep stepRor n v = if n = 0 then v else (v >>> n) ||| (v <<< (32 - n)) := by
  split
  case isTrue zero => rw [zero]; rfl
  case isFalse => rw [repeatStep_eq_iterate, iterate_stepRor h.le]

/-- A shift writes any word equal to what repeating its one-bit step gives. -/
theorem exec_wrote_closed_form {i : Instr} {d : Reg} {f : Word → Word} {n : Nat} {s : State} {v : Word}
    (h : exec i s = writeAndAdvance d (repeatStep f n (s.reg d)) s) (closed : repeatStep f n (s.reg d) = v) :
    ∃ t, exec i s = .next t ∧ WroteRegister d v s t :=
  closed ▸ exec_wrote h

/-- Settles O42: n one-bit steps are one shift by n, and SLA's step is SLL's. -/
theorem shiftsHaveClosedForms : Obligations.ShiftsHaveClosedForms := fun s d n h =>
  have left := (repeatStep_stepSll n (s.reg d)).trans (shiftLeft_eq_mul _ n)
  ⟨exec_wrote_closed_form (exec_sll d n s) left,
    exec_wrote_closed_form (exec_srl d n s) ((repeatStep_stepSrl n _).trans (ushiftRight_eq_div _ n)),
    exec_wrote_closed_form (exec_sla d n s) left,
    exec_wrote_closed_form (exec_sra d n s) ((repeatStep_stepSra n _).trans (sshiftRight_eq_div _ n)),
    exec_wrote_closed_form (exec_rol d n s) (rol_closed_form h _),
    exec_wrote_closed_form (exec_ror d n s) (ror_closed_form h _)⟩

end Sys2Proof.Machine
end

section
/-! The X4 family again (spec/44_regreg_x4.md): ADD and SUB as exact signed arithmetic, the ordered skips, and the word a
taken skip passes over (spec/70_reset_and_hazards.md R306). -/

namespace Sys2Proof.Machine

/-! ## ADD and SUB -/

theorem exec_add (d r : Reg) (s : State) : exec (.add d r) s = writeAndAdvance d (s.reg d + s.reg r) s := rfl

theorem exec_sub (d r : Reg) (s : State) : exec (.sub d r) s = writeAndAdvance d (s.reg d - s.reg r) s := rfl

theorem ofInt_toInt_add (v u : Word) : BitVec.ofInt 32 (v.toInt + u.toInt) = v + u := by
  rw [BitVec.ofInt_add, BitVec.ofInt_toInt, BitVec.ofInt_toInt]

theorem ofInt_toInt_sub (v u : Word) : BitVec.ofInt 32 (v.toInt - u.toInt) = v - u :=
  BitVec.eq_of_toInt_eq (by rw [BitVec.toInt_ofInt, BitVec.toInt_sub])

/-- Settles O45: wrapping the exact signed result is the word operation. -/
theorem addSubResults : Obligations.AddSubResults := by
  intro s d r
  rw [ofInt_toInt_add, ofInt_toInt_sub]
  exact ⟨exec_wrote (exec_add d r s), exec_wrote (exec_sub d r s)⟩

/-! ## The ordered skips -/

theorem exec_skgt (d r : Reg) (s : State) : exec (.skgt d r) s = skipIf (decide ((s.reg d).toInt < (s.reg r).toInt)) s := rfl

theorem exec_skge (d r : Reg) (s : State) : exec (.skge d r) s = skipIf (decide ((s.reg d).toInt ≤ (s.reg r).toInt)) s := rfl

theorem exec_skle (d r : Reg) (s : State) : exec (.skle d r) s = skipIf (decide ((s.reg r).toInt ≤ (s.reg d).toInt)) s := rfl

theorem exec_sklt (d r : Reg) (s : State) : exec (.sklt d r) s = skipIf (decide ((s.reg r).toInt < (s.reg d).toInt)) s := rfl

/-- Settles O47: each is a skip on its signed relation. -/
theorem orderedSkipsCompareSigned : Obligations.OrderedSkipsCompareSigned := fun s d r =>
  ⟨exec_advanced_of_skip (exec_skgt d r s), exec_advanced_of_skip (exec_skge d r s),
    exec_advanced_of_skip (exec_skle d r s), exec_advanced_of_skip (exec_sklt d r s)⟩

/-! ## The skipped word -/

/-- The condition of a skip instruction, read from the two registers it names. -/
def skipCondition : Instr → State → Bool
  | .skgt d r, s => condGreater (s.reg r) (s.reg d)
  | .skge d r, s => condGreaterEqual (s.reg r) (s.reg d)
  | .skeq d r, s => condEqual (s.reg r) (s.reg d)
  | .skle d r, s => condLessEqual (s.reg r) (s.reg d)
  | .sklt d r, s => condLess (s.reg r) (s.reg d)
  | _, _ => false

theorem exec_of_isSkip {i : Instr} (skips : isSkip i = true) (s : State) : exec i s = skipIf (skipCondition i s) s := by
  cases i with
  | skgt | skge | skeq | skle | sklt => rfl
  | _ => cases skips

theorem skipCondition_memWrite (i : Instr) (s : State) (a : Nat) (v : Word) :
    skipCondition i (s.memWrite a v) = skipCondition i s := by
  cases i <;> rfl

/-- A skip does not look at memory, so it takes the written state where it takes the state itself, one cell apart. -/
theorem exec_skip_memWrite {i : Instr} {s t : State} (skips : isSkip i = true) (h : exec i s = .next t) (a : Nat)
    (v : Word) : exec i (s.memWrite a v) = .next (t.memWrite a v) := by
  rw [exec_of_isSkip skips] at h ⊢
  cases complete_next h
  rw [skipCondition_memWrite]
  rfl

/-- A write to a cell that the PC does not address is not seen by the fetch. -/
theorem State.fetch_memWrite_of_pc_ne {s : State} {a : Nat} (other : s.pc.toNat ≠ a) (v : Word) :
    (s.memWrite a v).fetch = s.fetch := by
  by_cases inRange : s.InRange s.pc.toInt
  · refine State.fetch_congr rfl rfl ?_
    rw [State.memWrite_memRead, inRange.pc_toNat, if_neg other]
  · rw [fetch_of_not_inRange (s := s.memWrite a v) inRange, fetch_of_not_inRange inRange]

/-- Settles O48: neither the PC nor the PC two words on is the address of the word between them. -/
theorem skippedWordHasNoEffect : Obligations.SkippedWordHasNoEffect := by
  intro s t w i v fetches decodes skips hstep taken
  rw [step_of_fetch fetches decodes] at hstep
  have fetchesSame : (s.memWrite (s.pc.toNat + 1) v).fetch = some w := by
    rwa [State.fetch_memWrite_of_pc_ne (Nat.ne_of_lt (Nat.lt_succ_self _))]
  have next : t.pc.toNat ≠ s.pc.toNat + 1 := by
    have below : s.pc.toNat < 2 ^ 32 := s.pc.isLt
    rw [taken, BitVec.toNat_add, show (2#32).toNat = 2 from rfl]
    omega
  exact ⟨t.memWrite (s.pc.toNat + 1) v, (step_of_fetch fetchesSame decodes).trans (exec_skip_memWrite skips hstep _ v),
    fun _ _ => rfl, ⟨rfl, rfl, rfl⟩, fun b other => by simp [other], rfl, State.fetch_memWrite_of_pc_ne next v⟩

end Sys2Proof.Machine
end
